-- ==== Sys2Proof/Word.lean ====
section
/-! DEFINITION. The two bit-vector types the whole model shares: a byte of local memory or of a packet
(spec/00_scope.md R12) and a host-visible register or command word (R10: REG_WIDTH = ADDR_WIDTH = 32). -/

namespace Sys2Proof

/-- A byte (R12). -/
abbrev Byte := BitVec 8

/-- A 16-bit header field or checksum value (R12, R102). -/
abbrev Half := BitVec 16

/-- A 32-bit register or command word (R10, R80). -/
abbrev Word := BitVec 32

end Sys2Proof
end

