-- ==== Sys2Proof/Config.lean ====
section
/-! DEFINITION. What an implementation fixes (spec/00_scope.md R10, spec/92_eei_decisions.md "Open parameters")
and the values the spec leaves free. A `Config` is held in `State` and no step changes it, so a statement about
every state is a statement about every MEM_SIZE and every ICE_BASE. -/

namespace Sys2Proof

/-- The two open parameters of the block. -/
structure Config where
  /-- MEM_SIZE: bytes of local memory, default 4096 (R10). -/
  memSize : Nat := 4096
  /-- ICE_BASE: where the block sits in the host's address space (R61). The spec gives no default:
  DESIGN CHOICE 0 (assumption log 3, unsafe). -/
  iceBase : Nat := 0
  deriving DecidableEq, Repr

/-- The legal range of MEM_SIZE (R10). -/
abbrev Config.wf (c : Config) : Prop := 16 ≤ c.memSize ∧ c.memSize ≤ 131072

/-- The n-th byte drawn by a HOST read that returns a draw (spec/20_memory.md R66,
spec/70_reset_and_hazards.md R198). A free value: no body, so nothing can be proved about it (log 6, safe). -/
opaque Config.freeByte : Nat → Byte

/-- The n-th free choice of the agent that moves next, where both can move and nothing in the state says which
(spec/00_scope.md R7); true is ENGINE. A free value: no body (log 4, safe). -/
opaque Config.freeEngineFirst : Nat → Bool

end Sys2Proof
end

