-- ==== Sys2Proof/Machine/Bus.lean ====
section
/-! DEFINITION. The data of the host side: the register names of the map (spec/10_state.md R22), the two agents
(spec/00_scope.md R6), the actions HOST can take (spec/30_encoding.md R87, R88, spec/70_reset_and_hazards.md R191,
R200) and the statements of the host notation. Data only; what an action does is in Machine/HostPort.lean. -/

namespace Sys2Proof.Machine

/-- The host-visible registers (R22). -/
inductive RegName where
  | ctrl | cmd | status | csAddr | csLen | csSum | csResult | echoId | echoSeq | plAddr | plLen | txAddr | txLen
  | rxAddr | rxLen | decType | decCode | decCsum | decId | decSeq | decIhl | decPlAddr | decPlLen
  deriving DecidableEq, Repr

/-- The two agents (spec/00_scope.md R6). -/
inductive Agent where
  | host
  | engine
  deriving DecidableEq, Repr

/-- One action of HOST. `addr` is an address of the host's own space; the block sits at ICE_BASE in it (R61). `bits`
is the width of the access, of any size, so that an access the block does not define can be written down (R63). -/
inductive HostAct where
  /-- A read access. -/
  | read (addr : Nat) (bits : Nat)
  /-- A write access; an 8-bit write carries its byte in `data`'s low 8 bits. -/
  | write (addr : Nat) (bits : Nat) (data : Word)
  /-- POLL: read STATUS and repeat while its bit 0 is 1 (R88). -/
  | poll
  /-- Wait until irq is 1 (R200). -/
  | waitIrq
  /-- Assert `rst` (R191). -/
  | rst
  deriving DecidableEq, Repr

/-- The statements of the host notation (R87) and its pseudo-statements (R88), with the two HOST actions that the
spec names without giving them a spelling: `rst` (R191) and waiting for irq (R200). -/
inductive HostStmt where
  | wr (reg : RegName) (v : Word)
  | rd (reg : RegName)
  | sb (a : Nat) (b : Byte)
  | lb (a : Nat)
  | sbs (a : Nat) (text : List Char)
  | sbx (a : Nat) (bytes : List Byte)
  | cmd (w : Word)
  | poll
  | ack
  | waitIrq
  | rst
  deriving DecidableEq, Repr

end Sys2Proof.Machine
end

