-- ==== Sys2Proof/Syntax.lean ====
section
/-! DEFINITION. The commands of the block: the three rows of spec/opcode_table.json. A command has no operand
field (spec/30_encoding.md R80, R83); its operands are the registers of spec/10_state.md. -/

namespace Sys2Proof

/-- The commands (spec/30_encoding.md R82). -/
inductive Instr where
  /-- CSUM: the Internet checksum of a MEM range (spec/40_checksum.md R104). -/
  | csum
  /-- BUILD_ECHO: build an ICMP Echo Request with its checksum (spec/41_codec.md R122). -/
  | buildEcho
  /-- DECODE: decode a received datagram and classify it (spec/41_codec.md R130). -/
  | decode
  deriving DecidableEq, Repr

end Sys2Proof
end

