-- ==== Sys2Proof/Machine/State.lean ====
section
/-! DEFINITION. The state of the block and of its host side as plain data, the reset state, and the reasons a step
can stop. Field by field it follows INVENTORY.md's '## State'. -/

namespace Sys2Proof.Machine

/-- CTRL (spec/10_state.md R25). Bits 31:2 are reserved and hold nothing. -/
structure Ctrl where
  /-- IE, bit 0. -/
  ie : Bool := false
  /-- TRUNC_FAIL, bit 1. -/
  truncFail : Bool := false
  deriving DecidableEq, Repr

/-- STATUS (R27 to R36). Bits 31:12 are reserved and hold nothing. -/
structure Status where
  /-- BUSY, bit 0 (R28). -/
  busy : Bool := false
  /-- DONE, bit 1 (R29). -/
  done : Bool := false
  /-- ERR, bit 2 (R30). -/
  err : Bool := false
  /-- OVR, bit 3 (R31). -/
  ovr : Bool := false
  /-- ERRCODE, bits 7:4 (R32). -/
  errcode : BitVec 4 := 0#4
  /-- CSUM_ZERO, bit 8 (R33). -/
  csumZero : Bool := false
  /-- TRUNC, bit 9 (R34). -/
  trunc : Bool := false
  /-- DEC_VALID, bit 10 (R35). -/
  decValid : Bool := false
  /-- MATCH, bit 11 (R36). -/
  matched : Bool := false
  deriving DecidableEq, Repr

/-- The RW operand registers (R38, R39, R42 to R46, R48, R49). -/
structure OperandRegs where
  csAddr : Word := 0#32
  csLen : Word := 0#32
  echoId : Half := 0#16
  echoSeq : Half := 1#16
  plAddr : Word := 0#32
  plLen : Word := 0#32
  txAddr : Word := 0#32
  rxAddr : Word := 0#32
  rxLen : Word := 0#32
  deriving DecidableEq, Repr

/-- The RO result registers of CSUM and BUILD_ECHO (R40, R41, R47). -/
structure ResultRegs where
  csSum : Half := 0#16
  csResult : Half := 0#16
  txLen : Word := 0#32
  deriving DecidableEq, Repr

/-- The RO result registers of DECODE, DEC_TYPE to DEC_PL_LEN (R50 to R57). -/
structure DecodeRegs where
  type : Byte := 0#8
  code : Byte := 0#8
  csum : Half := 0#16
  id : Half := 0#16
  seq : Half := 0#16
  ihl : BitVec 6 := 0#6
  plAddr : Word := 0#32
  plLen : Word := 0#32
  deriving DecidableEq, Repr

/-- Local memory: the written bytes in strictly rising address order. An unlisted address is unwritten and reads as
no byte (spec/20_memory.md R66), so no entry can equal what an unlisted address reads as. -/
abbrev Memory := List Host.Cell

/-- The canonical form of a memory: addresses strictly rising. -/
abbrev Memory.wf (m : Memory) : Prop := m.Pairwise (fun c d => c.1 < d.1)

/-- The host side, which is the model's own and no state of the block (assumption log 4, 5 and 6). -/
structure HostSide where
  /-- What HOST does next, in program order (spec/20_memory.md R72). -/
  prog : List HostAct := []
  /-- Which agent moves next, as far as it is prescribed (spec/00_scope.md R7). -/
  sched : List Agent := []
  /-- The values returned to HOST, newest first; an 8-bit read is zero-extended. -/
  reads : List Word := []
  /-- How many free values have been drawn. -/
  draws : Nat := 0
  deriving DecidableEq, Repr

/-- The machine. Every default below is the reset value of spec/10_state.md R22 and
spec/70_reset_and_hazards.md R190, but for `pend` (log 1) and `env` (log 4, 5, 6). -/
structure State where
  /-- The parameters MEM_SIZE and ICE_BASE; no step changes them. -/
  cfg : Config := {}
  ctrl : Ctrl := {}
  status : Status := {}
  ops : OperandRegs := {}
  res : ResultRegs := {}
  dec : DecodeRegs := {}
  /-- PEND (R58). Its reset value is unspecified: DESIGN CHOICE 0 (log 1, unsafe). -/
  pend : Word := 0#32
  /-- Every byte unwritten at reset (R190). -/
  mem : Memory := []
  env : HostSide := {}
  deriving DecidableEq, Repr

/-- The machine right after reset (spec/70_reset_and_hazards.md R190), with the default MEM_SIZE of R10. -/
def State.reset : State := {}

/-- The reasons a step stops the machine: the spec's two model faults (spec/60_exceptions.md R173). Both are safe:
past one nothing is provable. -/
inductive Fault where
  /-- UNINIT_READ, raised by ENGINE when the command `cmd` reads the unwritten byte `addr`
  (spec/20_memory.md R66). Safe. -/
  | uninitRead (cmd : Instr) (addr : Nat)
  /-- HAZARD, raised by a HOST write to the byte `addr` of the pending command's footprint while BUSY = 1
  (spec/70_reset_and_hazards.md R197). Safe. -/
  | hazard (addr : Nat)
  deriving DecidableEq, Repr

/-- The reasons a step is refused. The last three are the spec's refused host accesses
(spec/20_memory.md R63); no command is refused. All are safe. -/
inductive Refusal where
  /-- An instruction without a meaning yet; no arm of `exec` raises it now. Safe. -/
  | notModelled (mnemonic : String)
  /-- Raised by a HOST access to the register window or the reserved region that is not 32 bits wide at a
  4-byte-aligned offset (R63a). Safe. -/
  | badRegisterAccess (off bits : Nat)
  /-- Raised by a HOST access to the MEM window that is not 8 bits wide (R63b). Safe. -/
  | badMemAccess (off bits : Nat)
  /-- Raised by a HOST access that the block does not decode: at host offset 0x1000 + MEM_SIZE or above (R63c), or at
  an address below ICE_BASE. Safe. -/
  | notDecoded (addr : Nat)
  deriving DecidableEq, Repr

end Sys2Proof.Machine
end

