-- ==== Sys2Proof/Machine/Operands.lean ====
section
/-! DEFINITION. The source's parameters, the byte helpers, and every operand form the commands use: addresses and
lengths as naturals, the range test, the payload bound, the overlap test, the IP header length and the ICMP header
(spec/00_scope.md R9, R12, R18, spec/30_encoding.md R83, R84, spec/41_codec.md R121, R132). -/

namespace Sys2Proof.Machine

/-! ### Parameters fixed by the source (R9) and by the spec (R10) -/

/-- ICMP_HDR_LEN (R9). -/
abbrev icmpHdrLen : Nat := 8

/-- MAX_PAYLOAD (R9). -/
abbrev maxPayload : Nat := 1024

/-- TYPE_ECHO_REQUEST (R9). -/
abbrev typeEchoRequest : Byte := 8#8

/-- TYPE_ECHO_REPLY (R9). -/
abbrev typeEchoReply : Byte := 0#8

/-- CODE_ECHO (R9). -/
abbrev codeEcho : Byte := 0#8

/-- IHL_UNIT (R9). -/
abbrev ihlUnit : Nat := 4

/-- IHL_MIN_WORDS (R10). -/
abbrev ihlMinWords : Nat := 5

/-! ### Bytes and 16-bit values (R12) -/

/-- `be16(b0, b1)`: the first byte is the high-order one (R12, spec/20_memory.md R64). -/
def be16 (b0 b1 : Byte) : Half := b0 ++ b1

/-- `hi8(v) = v[15:8]` (R12). -/
def hi8 (v : Half) : Byte := v.extractLsb' 8 8

/-- `lo8(v) = v[7:0]` (R12). -/
def lo8 (v : Half) : Byte := v.extractLsb' 0 8

/-- `swap16(v)`, the byte swap of spec/40_checksum.md R109. -/
def swap16 (v : Half) : Half := be16 (lo8 v) (hi8 v)

/-! ### Ranges (R18) -/

/-- `InRange(a, n)`: the sum is exact, so nothing wraps (R18, spec/60_exceptions.md R165). -/
def inRange (c : Config) (a n : Nat) : Bool := decide (a + n ≤ c.memSize)

/-- The byte `x` lies in `[a, a + n)`. -/
def within (x a n : Nat) : Bool := decide (a ≤ x ∧ x < a + n)

/-! ### Operands of BUILD_ECHO (spec/41_codec.md R121, R122) -/

/-- `eff_len = min(PL_LEN, MAX_PAYLOAD)` (R121). -/
def effLen (s : State) : Nat := min s.ops.plLen.toNat maxPayload

/-- The length of the packet, `8 + eff_len` (R122, spec/10_state.md R47). -/
def packetLen (s : State) : Nat := icmpHdrLen + effLen s

/-- The OVERLAP test (spec/60_exceptions.md R164), in exact arithmetic. -/
def overlaps (p e t : Nat) : Bool := decide (0 < e ∧ p < t + icmpHdrLen + e ∧ t < p + e)

/-- The eight bytes of an Echo Request header with checksum `c` (R122, R123, spec/20_memory.md R69). -/
def echoHeader (c id sq : Half) : List Byte :=
  [typeEchoRequest, codeEcho, hi8 c, lo8 c, hi8 id, lo8 id, hi8 sq, lo8 sq]

/-! ### Operands of DECODE (spec/41_codec.md R130, R132) -/

/-- The IP header length in 32-bit words: the low 4 bits of the first byte (R132). -/
def ihlWords (b0 : Byte) : Nat := (b0.extractLsb' 0 4).toNat

/-- The IP header length in bytes (R132). -/
def ihlBytes (b0 : Byte) : Nat := ihlWords b0 * ihlUnit

/-- Byte `i` of the ICMP header read by DECODE (spec/20_memory.md R69). -/
def headerByte (h : List Byte) (i : Nat) : Byte := h.getD i 0#8

/-- The 16-bit big-endian field at offset `i` of the ICMP header (R134, spec/20_memory.md R69). -/
def headerHalf (h : List Byte) (i : Nat) : Half := be16 (headerByte h i) (headerByte h (i + 1))

end Sys2Proof.Machine
end

