-- ==== Sys2Proof/Machine/Flags.lean ====
section
/-! DEFINITION. Every flag computation: the error codes, CSUM_ZERO, TRUNC, MATCH, irq, and the words that CTRL and
STATUS read as (spec/10_state.md R25 to R37, R59, spec/60_exceptions.md R160). -/

namespace Sys2Proof.Machine

/-- The six errors a command can raise (spec/60_exceptions.md R160). -/
inductive CmdError where
  /-- Any illegal command word (R162). -/
  | illegalCmd
  /-- A MEM range ends past MEM_SIZE (R165). -/
  | badRange
  /-- BUILD_ECHO with TRUNC_FAIL = 1 and PL_LEN > 1024 (R163). -/
  | payloadTooLong
  /-- BUILD_ECHO whose source and destination intersect (R164). -/
  | overlap
  /-- DECODE with a header length below 5 words (R166). -/
  | badIhl
  /-- DECODE of an empty datagram or a truncated ICMP header (R169). -/
  | shortDgram
  deriving DecidableEq, Repr

/-- The code in ERRCODE (R160). -/
def errorCode : CmdError → BitVec 4
  | .illegalCmd => 1#4
  | .badRange => 2#4
  | .payloadTooLong => 3#4
  | .overlap => 4#4
  | .badIhl => 5#4
  | .shortDgram => 6#4

/-- CSUM_ZERO for the folded sum `s`: the checksum is 0x0000, equivalently the sum is 0xFFFF (R33). -/
def csumZeroFlag (s : Nat) : Bool := decide (s = 0xFFFF)

/-- TRUNC for a payload of `n` bytes (R34). -/
def truncFlag (n : Nat) : Bool := decide (maxPayload < n)

/-- MATCH: the matching predicate (R36, spec/41_codec.md R137). -/
def matchFlag (type : Byte) (id echoId : Half) : Bool := type == typeEchoReply && id == echoId

/-- The interrupt output, a function of state (R59, spec/60_exceptions.md R174). -/
def State.irq (s : State) : Bool := s.ctrl.ie && s.status.done

/-- What CTRL reads as (R25): the reserved bits read 0. -/
def ctrlWord (c : Ctrl) : Word := 0#30 ++ (BitVec.ofBool c.truncFail ++ BitVec.ofBool c.ie)

/-- What CTRL holds after `v` is written (R25): only bits 1:0 are stored. -/
def ctrlOfWord (v : Word) : Ctrl := { ie := v.getLsbD 0, truncFail := v.getLsbD 1 }

/-- What STATUS reads as (R27): the reserved bits read 0. -/
def statusWord (t : Status) : Word :=
  0#20 ++ (BitVec.ofBool t.matched ++ (BitVec.ofBool t.decValid ++ (BitVec.ofBool t.trunc ++
    (BitVec.ofBool t.csumZero ++ (t.errcode ++ (BitVec.ofBool t.ovr ++ (BitVec.ofBool t.err ++
      (BitVec.ofBool t.done ++ BitVec.ofBool t.busy))))))))

end Sys2Proof.Machine
end

