-- ==== Sys2Proof/Machine/Ops.lean ====
section
/-! DEFINITION. The shared operations on memory and registers: reading and writing MEM (spec/00_scope.md R14,
spec/20_memory.md R66), issuing a command (spec/10_state.md R26), the two completions (spec/00_scope.md R15,
spec/60_exceptions.md R167, R168), the acknowledgement of one (R37, spec/60_exceptions.md R177), and reset. -/

namespace Sys2Proof.Machine

/-! ### Memory as data -/

/-- The byte at `a`, or none where it is unwritten (spec/20_memory.md R66). -/
def Memory.read : Memory → Nat → Option Byte
  | [], _ => none
  | c :: m, a => if c.1 = a then some c.2 else Memory.read m a

/-- Write the byte `b` at `a` and mark it written, keeping the addresses rising. -/
def Memory.write : Memory → Nat → Byte → Memory
  | [], a, b => [(a, b)]
  | c :: m, a, b =>
    if a < c.1 then (a, b) :: c :: m
    else if a = c.1 then (a, b) :: m
    else c :: Memory.write m a b

/-- The `n` bytes from `a`, or the lowest unwritten address among them. -/
def Memory.readBytes (m : Memory) (a : Nat) : Nat → Except Nat (List Byte)
  | 0 => .ok []
  | n + 1 =>
    match Memory.read m a with
    | none => .error a
    | some b =>
      match Memory.readBytes m (a + 1) n with
      | .error x => .error x
      | .ok bs => .ok (b :: bs)

/-- Write the bytes `bs` from `a` on. -/
def Memory.writeBytes (m : Memory) (a : Nat) : List Byte → Memory
  | [] => m
  | b :: bs => Memory.writeBytes (Memory.write m a b) (a + 1) bs

/-! ### ENGINE's memory primitives (spec/00_scope.md R14) -/

/-- `MemRead(a, n)` for the command `cmd`: UNINIT_READ at the first unwritten byte (spec/20_memory.md R66). -/
def memRead (cmd : Instr) (a n : Nat) (s : State) : Except Fault (List Byte) :=
  match Memory.readBytes s.mem a n with
  | .error x => .error (.uninitRead cmd x)
  | .ok bs => .ok bs

/-- `MemWrite(a, n, bs)`, `n` the length of `bs`. -/
def memWrite (a : Nat) (bs : List Byte) (s : State) : State := { s with mem := Memory.writeBytes s.mem a bs }

/-! ### Issue, completion, acknowledgement, reset -/

/-- A CMD write while BUSY = 0 issues the command word `w` (spec/10_state.md R26). -/
def issue (w : Word) (s : State) : State :=
  { s with
    pend := w
    status := { s.status with busy := true, done := false, err := false, errcode := 0#4 } }

/-- `complete`: the successful completion (spec/60_exceptions.md R168). OVR is not touched. -/
def complete (s : State) : State :=
  { s with status := { s.status with busy := false, done := true, err := false, errcode := 0#4 } }

/-- `raise Error(code)`: the completion with an error, the only "exception" the block has (R161, R167, R168, R176). -/
def raiseError (e : CmdError) (s : State) : State :=
  { s with status := { s.status with busy := false, done := true, err := true, errcode := errorCode e } }

/-- A HOST write of `v` to STATUS: bit 1 clears DONE, bit 3 clears OVR, nothing else (spec/10_state.md R37). With
`v = 2` it is ACK, the only "return" there is (R88, spec/60_exceptions.md R177). -/
def statusWrite (v : Word) (s : State) : State :=
  { s with
    status :=
      { s.status with
        done := s.status.done && !v.getLsbD 1
        ovr := s.status.ovr && !v.getLsbD 3 } }

/-- Set the sticky OVR, as a dropped write does (R31, spec/70_reset_and_hazards.md R195). -/
def setOvr (s : State) : State := { s with status := { s.status with ovr := true } }

/-- Assert and release `rst` (R190, R191): every register and every MEM byte as at reset. The parameters and the
host side are no state of the block and stay. -/
def applyReset (s : State) : State := { State.reset with cfg := s.cfg, env := s.env }

/-! ### Result registers -/

/-- Latch the folded sum `x`, its complement and CSUM_ZERO (spec/40_checksum.md R104, spec/41_codec.md R122). -/
def latchSum (x : Nat) (s : State) : State :=
  { s with
    res := { s.res with csSum := BitVec.ofNat 16 x, csResult := BitVec.ofNat 16 (0xFFFF - x) }
    status := { s.status with csumZero := csumZeroFlag x } }

/-- Latch TX_LEN and TRUNC after a successful BUILD_ECHO (spec/41_codec.md R122). -/
def latchPacket (len plLen : Nat) (s : State) : State :=
  { s with
    res := { s.res with txLen := BitVec.ofNat 32 len }
    status := { s.status with trunc := truncFlag plLen } }

/-- Latch the fields of a decoded datagram at `r` of `n` bytes, with IP header length `ihl` and ICMP header bytes
`h`, then DEC_VALID and MATCH (spec/41_codec.md R130). -/
def latchDecoded (r n ihl : Nat) (h : List Byte) (s : State) : State :=
  { s with
    dec :=
      { type := headerByte h 0
        code := headerByte h 1
        csum := headerHalf h 2
        id := headerHalf h 4
        seq := headerHalf h 6
        ihl := BitVec.ofNat 6 ihl
        plAddr := BitVec.ofNat 32 (r + ihl + icmpHdrLen)
        plLen := BitVec.ofNat 32 (n - ihl - icmpHdrLen) }
    status :=
      { s.status with
        decValid := true
        matched := matchFlag (headerByte h 0) (headerHalf h 4) s.ops.echoId } }

/-- Clear DEC_VALID and MATCH, as a DECODE that raises an error does (R130, spec/10_state.md R35, R36). -/
def clearDecoded (s : State) : State := { s with status := { s.status with decValid := false, matched := false } }

/-! ### The host side's record -/

/-- Record a value returned to HOST. -/
def recordRead (v : Word) (s : State) : State := { s with env := { s.env with reads := v :: s.env.reads } }

/-- Take HOST's current action off its program. -/
def popProg (s : State) : State := { s with env := { s.env with prog := s.env.prog.tail } }

/-- Count a free value as drawn. -/
def countDraw (s : State) : State := { s with env := { s.env with draws := s.env.draws + 1 } }

end Sys2Proof.Machine
end

