-- ==== Sys2Proof/Machine/Checksum.lean ====
section
/-! DEFINITION. The checksum functions (spec/40_checksum.md R100 to R103, spec/00_scope.md R16) and the command CSUM
(R104). -/

namespace Sys2Proof.Machine

/-- `Words(bs)`: big-endian 16-bit words from the first byte on; an odd trailing byte is the high byte of a word
whose low byte is 0 (R100, spec/90_conflicts.md C2). -/
def wordsOf : List Byte → List Half
  | [] => []
  | [b] => [be16 b 0#8]
  | b0 :: b1 :: bs => be16 b0 b1 :: wordsOf bs

/-- The exact sum of the words, over the naturals (R102). -/
def wordSum (ws : List Half) : Nat := (ws.map BitVec.toNat).sum

/-- One pass of `Fold`: the low 16 bits plus the carry (R101). -/
def foldPass (x : Nat) : Nat := x % 0x10000 + x / 0x10000

/-- The loop of `Fold` with a bound on its passes. -/
def foldLoop : Nat → Nat → Nat
  | 0, x => x
  | fuel + 1, x => if 0xFFFF < x then foldLoop fuel (foldPass x) else x

/-- `Fold(S)` (R101). Each pass that starts above 0xFFFF makes S strictly smaller, so S passes are enough. -/
def fold (x : Nat) : Nat := foldLoop x x

/-- `InetSum(bs)`, the folded sum (R102). -/
def inetSum (bs : List Byte) : Nat := fold (wordSum (wordsOf bs))

/-- `InetChecksum(bs)`, its complement (R102). -/
def inetChecksum (bs : List Byte) : Nat := 0xFFFF - inetSum bs

/-- The words of a little-endian assembly, an odd trailing byte being the low byte. No command uses it: it is the
other reading that R109 compares with. -/
def wordsLittle : List Byte → List Half
  | [] => []
  | [b] => [be16 0#8 b]
  | b0 :: b1 :: bs => be16 b1 b0 :: wordsLittle bs

/-- The error CSUM raises, if any (R104, R165). -/
def csumError (s : State) : Option CmdError :=
  if inRange s.cfg s.ops.csAddr.toNat s.ops.csLen.toNat then none else some .badRange

/-- CSUM (R104). -/
def execCsum (s : State) : Host.Outcome State Fault Refusal :=
  match csumError s with
  | some e => .next (raiseError e s)
  | none =>
    match memRead .csum s.ops.csAddr.toNat s.ops.csLen.toNat s with
    | .error f => .fault f
    | .ok bs => .next (complete (latchSum (inetSum bs) s))

end Sys2Proof.Machine
end

