-- ==== Sys2Proof/Machine/Codec.lean ====
section
/-! DEFINITION. The packet codec: BUILD_ECHO (spec/41_codec.md R120 to R125) and DECODE (R130 to R137). -/

namespace Sys2Proof.Machine

/-- The error BUILD_ECHO raises, if any: the first failing test in the order of spec/60_exceptions.md R170. -/
def buildError (s : State) : Option CmdError :=
  if s.ctrl.truncFail && decide (maxPayload < s.ops.plLen.toNat) then some .payloadTooLong
  else if !inRange s.cfg s.ops.plAddr.toNat (effLen s) then some .badRange
  else if !inRange s.cfg s.ops.txAddr.toNat (packetLen s) then some .badRange
  else if overlaps s.ops.plAddr.toNat (effLen s) s.ops.txAddr.toNat then some .overlap
  else none

/-- The folded sum of the packet with its checksum field zero and the payload `pl` (R122, R124). -/
def packetSum (id sq : Half) (pl : List Byte) : Nat := inetSum (echoHeader 0#16 id sq ++ pl)

/-- The packet BUILD_ECHO writes for the payload `pl` (R122, R123). -/
def echoPacket (id sq : Half) (pl : List Byte) : List Byte :=
  echoHeader (BitVec.ofNat 16 (0xFFFF - packetSum id sq pl)) id sq ++ pl

/-- BUILD_ECHO (R122). -/
def execBuildEcho (s : State) : Host.Outcome State Fault Refusal :=
  match buildError s with
  | some e => .next (raiseError e s)
  | none =>
    match memRead .buildEcho s.ops.plAddr.toNat (effLen s) s with
    | .error f => .fault f
    | .ok pl =>
      .next (complete (latchPacket (packetLen s) s.ops.plLen.toNat
        (latchSum (packetSum s.ops.echoId s.ops.echoSeq pl)
          (memWrite s.ops.txAddr.toNat (echoPacket s.ops.echoId s.ops.echoSeq pl) s))))

/-- The tests on a datagram of `n` bytes whose first byte is `b0`, in the order of spec/60_exceptions.md R171
(R133, R166, R169). -/
def headerError (b0 : Byte) (n : Nat) : Option CmdError :=
  if ihlWords b0 < ihlMinWords then some .badIhl
  else if n < ihlBytes b0 + icmpHdrLen then some .shortDgram
  else none

/-- The error DECODE raises before it reads any byte, if any (R130, spec/60_exceptions.md R171). -/
def datagramError (s : State) : Option CmdError :=
  if !inRange s.cfg s.ops.rxAddr.toNat s.ops.rxLen.toNat then some .badRange
  else if s.ops.rxLen.toNat = 0 then some .shortDgram
  else none

/-- The error DECODE raises, if any; none also where its first byte is unwritten, which is a model fault and no
error (spec/60_exceptions.md R172, R173). -/
def decodeError (s : State) : Option CmdError :=
  match datagramError s with
  | some e => some e
  | none =>
    match Memory.read s.mem s.ops.rxAddr.toNat with
    | none => none
    | some b0 => headerError b0 s.ops.rxLen.toNat

/-- `fail(code)` of R130: DEC_VALID and MATCH are cleared, then the error is raised. -/
def decodeFail (e : CmdError) (s : State) : State := raiseError e (clearDecoded s)

/-- DECODE (R130). -/
def execDecode (s : State) : Host.Outcome State Fault Refusal :=
  match decodeError s with
  | some e => .next (decodeFail e s)
  | none =>
    match memRead .decode s.ops.rxAddr.toNat 1 s with
    | .error f => .fault f
    | .ok first =>
      match memRead .decode (s.ops.rxAddr.toNat + ihlBytes (headerByte first 0)) icmpHdrLen s with
      | .error f => .fault f
      | .ok h =>
        .next (complete (latchDecoded s.ops.rxAddr.toNat s.ops.rxLen.toNat (ihlBytes (headerByte first 0)) h s))

end Sys2Proof.Machine
end

