-- ==== Sys2Proof/Machine/Dispatch.lean ====
section
/-! DEFINITION. One arm per command, each a direct call of its meaning. -/

namespace Sys2Proof.Machine

def exec (i : Instr) (s : State) : Host.Outcome State Fault Refusal :=
  match i with
  | .csum => Sys2Proof.Machine.execCsum s
  | .buildEcho => Sys2Proof.Machine.execBuildEcho s
  | .decode => Sys2Proof.Machine.execDecode s

end Sys2Proof.Machine
end

