-- ==== Sys2Proof/Decode.lean ====
section
/-! DEFINITION. The decoder of a command word (spec/30_encoding.md R80 to R82, R85), total on every 32-bit word
and rejecting by name, and the encoder written from the same table. -/

namespace Sys2Proof

/-- Why a command word selects no command (R81). ENGINE completes such a word with ILLEGAL_CMD
(spec/60_exceptions.md R162): a next state, not a stop. -/
inductive Reject where
  /-- The reserved field RSVD is not 0. -/
  | rsvdNonzero
  /-- OP is 0x0 or 0x4 to 0xF. -/
  | opIllegal (op : BitVec 4)
  deriving DecidableEq, Repr

/-- The field OP, bits 3:0 (R80). -/
def opField (w : Word) : BitVec 4 := w.extractLsb' 0 4

/-- The field RSVD, bits 31:4 (R80). -/
def rsvdField (w : Word) : BitVec 28 := w.extractLsb' 4 28

/-- The opcode map (R82). -/
def opcode : Instr → BitVec 4
  | .csum => 0x1#4
  | .buildEcho => 0x2#4
  | .decode => 0x3#4

/-- Decode a command word: RSVD is tested before OP (R81). -/
def decode (w : Word) : Except Reject Instr :=
  if rsvdField w ≠ 0#28 then .error .rsvdNonzero
  else if opField w = 0x1#4 then .ok .csum
  else if opField w = 0x2#4 then .ok .buildEcho
  else if opField w = 0x3#4 then .ok .decode
  else .error (.opIllegal (opField w))

/-- The command word of a command: RSVD zero, OP from the opcode map (R80, R82). -/
def encode (i : Instr) : Word := 0#28 ++ opcode i

/-- The command word that an opcode-table row of `nbits` bits and value `w` stands for: one 32-bit word, bit 0 its
least significant bit, every bit from `nbits` on zero. -/
def tableWord (nbits w : Nat) : Word := BitVec.ofNat 32 (w % 2 ^ nbits)

/-- What the decoder reads from a word numbered as spec/opcode_table.json numbers it. -/
def decodeTableWord (nbits w : Nat) : Option Instr :=
  match decode (tableWord nbits w) with
  | .ok i => some i
  | .error _ => none

end Sys2Proof
end

