-- ==== Sys2Proof/Machine/Engine.lean ====
section
/-! DEFINITION. Around a command: which agent moves next (spec/00_scope.md R7, spec/20_memory.md R72), the command
ENGINE takes from PEND (spec/30_encoding.md R81), the completion of an illegal word (spec/60_exceptions.md R162) and
the footprints of the pending command (spec/70_reset_and_hazards.md R196). -/

namespace Sys2Proof.Machine

/-- Both agents have a move and nothing prescribes which moves first. -/
def contended (s : State) : Bool := s.env.sched.isEmpty && s.status.busy && !s.env.prog.isEmpty

/-- The agent whose move comes next. The schedule says it while it lasts; after it, an agent that alone has a move
makes it, and where both have one the choice is a free value (R7; log 4). -/
def nextAgent (s : State) : Agent :=
  match s.env.sched with
  | a :: _ => a
  | [] =>
    if !s.status.busy then .host
    else if s.env.prog.isEmpty then .engine
    else if Config.freeEngineFirst s.env.draws then .engine
    else .host

/-- Use up the choice of the next agent. -/
def takeTurn (s : State) : State :=
  if contended s then countDraw s else { s with env := { s.env with sched := s.env.sched.tail } }

/-- Put ENGINE's step first in the schedule. -/
def scheduleEngine (s : State) : State := { s with env := { s.env with sched := .engine :: s.env.sched } }

/-- The command held in PEND (R81). -/
def fetch (s : State) : Except Reject Instr := decode s.pend

/-- A word that selects no command completes with ILLEGAL_CMD and changes nothing else (R85, R162). -/
def performIllegal (s : State) : State := raiseError .illegalCmd s

/-- The error the command `i` would raise in the state `s`, if any. -/
def commandError (i : Instr) (s : State) : Option CmdError :=
  match i with
  | .csum => csumError s
  | .buildEcho => buildError s
  | .decode => decodeError s

/-- The byte `x` is in the read range of the command `i` (R196). -/
def readRange (i : Instr) (s : State) (x : Nat) : Bool :=
  match i with
  | .csum => within x s.ops.csAddr.toNat s.ops.csLen.toNat
  | .buildEcho => within x s.ops.plAddr.toNat (effLen s)
  | .decode => within x s.ops.rxAddr.toNat s.ops.rxLen.toNat

/-- The byte `x` is in the write range of the command `i` (R196). -/
def writeRange (i : Instr) (s : State) (x : Nat) : Bool :=
  match i with
  | .csum => false
  | .buildEcho => within x s.ops.txAddr.toNat (packetLen s)
  | .decode => false

/-- The byte `x` is in the read footprint of the pending command; the footprint of an illegal word and of a command
that will raise an error is empty (R196). -/
def inReadFootprint (s : State) (x : Nat) : Bool :=
  match fetch s with
  | .error _ => false
  | .ok i => (commandError i s).isNone && readRange i s x

/-- The byte `x` is in the write footprint of the pending command (R196). -/
def inWriteFootprint (s : State) (x : Nat) : Bool :=
  match fetch s with
  | .error _ => false
  | .ok i => (commandError i s).isNone && writeRange i s x

/-- A HOST write of `b` to MEM byte `x` is a hazard (spec/70_reset_and_hazards.md R197): BUSY = 1 and `x` is in the
footprint of the pending command. Whether DECODE will raise an error can depend on a byte HOST is writing, so the
footprint is looked at before and after the write (DEDUCED, log 7, safe). -/
def hazardous (x : Nat) (b : Byte) (s : State) : Bool :=
  s.status.busy &&
    (inReadFootprint s x || inWriteFootprint s x ||
      inReadFootprint (memWrite x [b] s) x || inWriteFootprint (memWrite x [b] s) x)

end Sys2Proof.Machine
end

