-- ==== Sys2Proof/Machine/HostPort.lean ====
section
/-! DEFINITION. The host port: the register map (spec/10_state.md R22 to R57), the windows of the host address space
(spec/20_memory.md R61 to R63), and what each HOST action does (spec/70_reset_and_hazards.md R195 to R198). -/

namespace Sys2Proof.Machine

/-! ### The register map (R22) -/

/-- The offset of each register (R22). -/
def regOffset : RegName → Nat
  | .ctrl => 0x00
  | .cmd => 0x04
  | .status => 0x08
  | .csAddr => 0x0C
  | .csLen => 0x10
  | .csSum => 0x14
  | .csResult => 0x18
  | .echoId => 0x1C
  | .echoSeq => 0x20
  | .plAddr => 0x24
  | .plLen => 0x28
  | .txAddr => 0x2C
  | .txLen => 0x30
  | .rxAddr => 0x34
  | .rxLen => 0x38
  | .decType => 0x3C
  | .decCode => 0x40
  | .decCsum => 0x44
  | .decId => 0x48
  | .decSeq => 0x4C
  | .decIhl => 0x50
  | .decPlAddr => 0x54
  | .decPlLen => 0x58

/-- Every register of the map. -/
def regNames : List RegName :=
  [.ctrl, .cmd, .status, .csAddr, .csLen, .csSum, .csResult, .echoId, .echoSeq, .plAddr, .plLen, .txAddr, .txLen,
    .rxAddr, .rxLen, .decType, .decCode, .decCsum, .decId, .decSeq, .decIhl, .decPlAddr, .decPlLen]

/-- The register at an offset; none at a reserved one (R24, R61). -/
def regAt (off : Nat) : Option RegName := regNames.find? (fun r => regOffset r == off)

/-- What a register reads as: bits outside its defined bits read 0 and CMD reads 0 (R22, R23). -/
def regRead (r : RegName) (s : State) : Word :=
  match r with
  | .ctrl => ctrlWord s.ctrl
  | .cmd => 0#32
  | .status => statusWord s.status
  | .csAddr => s.ops.csAddr
  | .csLen => s.ops.csLen
  | .csSum => s.res.csSum.setWidth 32
  | .csResult => s.res.csResult.setWidth 32
  | .echoId => s.ops.echoId.setWidth 32
  | .echoSeq => s.ops.echoSeq.setWidth 32
  | .plAddr => s.ops.plAddr
  | .plLen => s.ops.plLen
  | .txAddr => s.ops.txAddr
  | .txLen => s.res.txLen
  | .rxAddr => s.ops.rxAddr
  | .rxLen => s.ops.rxLen
  | .decType => s.dec.type.setWidth 32
  | .decCode => s.dec.code.setWidth 32
  | .decCsum => s.dec.csum.setWidth 32
  | .decId => s.dec.id.setWidth 32
  | .decSeq => s.dec.seq.setWidth 32
  | .decIhl => s.dec.ihl.setWidth 32
  | .decPlAddr => s.dec.plAddr
  | .decPlLen => s.dec.plLen

/-- A write that is not dropped: a RW register stores its defined bits, a RO register ignores it, CMD issues a
command and STATUS clears its W1C fields (R22, R23, R26, R37). -/
def regWrite (r : RegName) (v : Word) (s : State) : State :=
  match r with
  | .ctrl => { s with ctrl := ctrlOfWord v }
  | .cmd => issue v s
  | .status => statusWrite v s
  | .csAddr => { s with ops := { s.ops with csAddr := v } }
  | .csLen => { s with ops := { s.ops with csLen := v } }
  | .csSum => s
  | .csResult => s
  | .echoId => { s with ops := { s.ops with echoId := v.setWidth 16 } }
  | .echoSeq => { s with ops := { s.ops with echoSeq := v.setWidth 16 } }
  | .plAddr => { s with ops := { s.ops with plAddr := v } }
  | .plLen => { s with ops := { s.ops with plLen := v } }
  | .txAddr => { s with ops := { s.ops with txAddr := v } }
  | .txLen => s
  | .rxAddr => { s with ops := { s.ops with rxAddr := v } }
  | .rxLen => { s with ops := { s.ops with rxLen := v } }
  | .decType => s
  | .decCode => s
  | .decCsum => s
  | .decId => s
  | .decSeq => s
  | .decIhl => s
  | .decPlAddr => s
  | .decPlLen => s

/-- A 32-bit read at an offset below 0x1000: a reserved offset reads 0 (R24, R61). -/
def windowRead (off : Nat) (s : State) : Word :=
  match regAt off with
  | some r => regRead r s
  | none => 0#32

/-- A 32-bit write at an offset below 0x1000. While BUSY = 1 every write but one to STATUS is dropped and sets OVR
(spec/70_reset_and_hazards.md R195); otherwise a reserved offset ignores it (R24, R61). -/
def windowWrite (off : Nat) (v : Word) (s : State) : State :=
  match regAt off with
  | some .status => statusWrite v s
  | some r => if s.status.busy then setOvr s else regWrite r v s
  | none => if s.status.busy then setOvr s else s

/-! ### The MEM window (R62) -/

/-- A HOST read of MEM byte `x` is recorded: a draw where the byte is unwritten (R66) or in the write footprint of
the pending command (R198), else its value. -/
def memWindowRead (x : Nat) (s : State) : State :=
  if s.status.busy && inWriteFootprint s x then countDraw (recordRead ((Config.freeByte s.env.draws).setWidth 32) s)
  else
    match Memory.read s.mem x with
    | none => countDraw (recordRead ((Config.freeByte s.env.draws).setWidth 32) s)
    | some b => recordRead (b.setWidth 32) s

/-- A HOST write of byte `b` to MEM byte `x` (R62), or HAZARD (R197). -/
def memWindowWrite (x : Nat) (b : Byte) (s : State) : Host.Outcome State Fault Refusal :=
  if hazardous x b s then .fault (.hazard x) else .next (memWrite x [b] s)

/-! ### The bus -/

/-- Where the MEM window begins in the block's host offsets (R61). -/
abbrev memWindowBase : Nat := 0x1000

/-- The parts of the host address space (R61), with the access checks of R63. -/
inductive BusTarget where
  /-- A register-window or reserved offset. -/
  | window (off : Nat)
  /-- The MEM byte `x`. -/
  | byte (x : Nat)
  /-- An access the interface does not define (R63). -/
  | undefinedAccess (r : Refusal)
  deriving DecidableEq, Repr

/-- What an access of `bits` bits at host address `addr` reaches (R61, R63). -/
def busTarget (c : Config) (addr bits : Nat) : BusTarget :=
  if addr < c.iceBase then .undefinedAccess (.notDecoded addr)
  else if memWindowBase + c.memSize ≤ addr - c.iceBase then .undefinedAccess (.notDecoded addr)
  else if memWindowBase ≤ addr - c.iceBase then
    if bits = 8 then .byte (addr - c.iceBase - memWindowBase)
    else .undefinedAccess (.badMemAccess (addr - c.iceBase) bits)
  else if bits = 32 ∧ (addr - c.iceBase) % 4 = 0 then .window (addr - c.iceBase)
  else .undefinedAccess (.badRegisterAccess (addr - c.iceBase) bits)

/-- A read access (R23d, R62, R67): nothing of the block changes. -/
def busRead (addr bits : Nat) (s : State) : Host.Outcome State Fault Refusal :=
  match busTarget s.cfg addr bits with
  | .undefinedAccess r => .refused r
  | .byte x => .next (memWindowRead x s)
  | .window off => .next (recordRead (windowRead off s) s)

/-- A write access (R23, R62, R195, R197). -/
def busWrite (addr bits : Nat) (v : Word) (s : State) : Host.Outcome State Fault Refusal :=
  match busTarget s.cfg addr bits with
  | .undefinedAccess r => .refused r
  | .byte x => memWindowWrite x (v.setWidth 8) s
  | .window off => .next (windowWrite off v s)

/-- POLL reads STATUS and stays in HOST's program while BUSY = 1 (spec/30_encoding.md R88). -/
def pollStep (s : State) : State :=
  if s.status.busy then recordRead (statusWord s.status) s else popProg (recordRead (statusWord s.status) s)

/-- HOST performs the action `act`, the first of its program. Waiting for irq stays while irq = 0 (R200), and `rst`
is a HOST step (R191). -/
def hostMove (act : HostAct) (s : State) : Host.Outcome State Fault Refusal :=
  match act with
  | .read addr bits => busRead addr bits (popProg s)
  | .write addr bits v => busWrite addr bits v (popProg s)
  | .poll => .next (pollStep s)
  | .waitIrq => .next (if s.irq then popProg s else s)
  | .rst => .next (applyReset (popProg s))

end Sys2Proof.Machine
end

