-- ==== Sys2Proof/Machine/Perform.lean ====
section
/-! DEFINITION. The move of each agent once its turn has been used up. An agent with no move changes nothing. -/

namespace Sys2Proof.Machine

/-- ENGINE has a step only while BUSY = 1, and performs the whole pending command in it (spec/00_scope.md R7,
spec/10_state.md R28, spec/30_encoding.md R81). -/
def engineMove (s : State) : Host.Outcome State Fault Refusal :=
  if s.status.busy then
    match fetch s with
    | .ok i => exec i s
    | .error _ => .next (performIllegal s)
  else .next s

/-- HOST performs the first action of its program, if any (spec/20_memory.md R72). -/
def hostTurn (s : State) : Host.Outcome State Fault Refusal :=
  match s.env.prog with
  | act :: _ => hostMove act s
  | [] => .next s

end Sys2Proof.Machine
end

