-- ==== Sys2Proof/Machine/Step.lean ====
section
/-! DEFINITION. One step of the machine, and the word that a step runs next. -/

namespace Sys2Proof.Machine

/-- One step: the next agent uses up its turn and moves (spec/00_scope.md R7, spec/20_memory.md R72). -/
def step (s : State) : Host.Outcome State Fault Refusal :=
  match nextAgent s with
  | .engine => engineMove (takeTurn s)
  | .host => hostTurn (takeTurn s)

/-- `s` with the command word issued, as a CMD write issues it, and ENGINE's step next. The schedule is touched only
where something else could come first (assumption log 8). -/
def State.withFetchWord (s : State) (nbits w : Nat) : State :=
  if s.env.prog.isEmpty && s.env.sched.isEmpty then issue (tableWord nbits w) s
  else scheduleEngine (issue (tableWord nbits w) s)

end Sys2Proof.Machine
end

