-- ==== Sys2Proof/Machine/HostProgram.lean ====
section
/-! DEFINITION. The host program notation (spec/30_encoding.md R87, R88): each statement expands to the accesses it
stands for. -/

namespace Sys2Proof.Machine

/-- The host address of a host offset (spec/20_memory.md R61). -/
def hostAddr (c : Config) (off : Nat) : Nat := c.iceBase + off

/-- The write `WR reg, v` (R87). -/
def writeReg (c : Config) (r : RegName) (v : Word) : HostAct := .write (hostAddr c (regOffset r)) 32 v

/-- The byte store `SB a, b` (R87). -/
def storeByte (c : Config) (a : Nat) (b : Byte) : HostAct :=
  .write (hostAddr c (memWindowBase + a)) 8 (b.setWidth 32)

/-- One `SB` per byte, at `a, a+1, ...` (R87). -/
def storeBytes (c : Config) (a : Nat) : List Byte → List HostAct
  | [] => []
  | b :: bs => storeByte c a b :: storeBytes c (a + 1) bs

/-- The bytes of a text (R87; ASCII, spec/93_implementation_defined.md K-5). -/
def textBytes (text : List Char) : List Byte := text.map (fun ch => BitVec.ofNat 8 ch.toNat)

/-- The accesses a statement stands for (R87, R88). -/
def expand (c : Config) : HostStmt → List HostAct
  | .wr r v => [writeReg c r v]
  | .rd r => [.read (hostAddr c (regOffset r)) 32]
  | .sb a b => [storeByte c a b]
  | .lb a => [.read (hostAddr c (memWindowBase + a)) 8]
  | .sbs a text => storeBytes c a (textBytes text)
  | .sbx a bytes => storeBytes c a bytes
  | .cmd w => [writeReg c .cmd w]
  | .poll => [.poll]
  | .ack => [writeReg c .status 0x00000002#32]
  | .waitIrq => [.waitIrq]
  | .rst => [.rst]

/-- A HOST program: its statements' accesses in program order (spec/20_memory.md R72). -/
def expandAll (c : Config) (p : List HostStmt) : List HostAct := p.flatMap (expand c)

end Sys2Proof.Machine
end

