-- ==== Sys2Proof/WellFormed.lean ====
section
/-! DEFINITION. The checks: of a command, of a command word, of the parameters, of an access and of a statement of
the host notation. Every check is a decidable proposition. -/

namespace Sys2Proof

/-- A command carries no field that could be ill formed (spec/30_encoding.md R80, R83). -/
abbrev Instr.wf : Instr → Prop
  | .csum => True
  | .buildEcho => True
  | .decode => True

/-- The legal command words, by their exact values (R82, R85). -/
abbrev legalWord (w : Word) : Prop := w = 0x00000001#32 ∨ w = 0x00000002#32 ∨ w = 0x00000003#32

namespace Machine

/-- An access at host offset `off` that the block's interface defines (spec/20_memory.md R61 to R63). -/
abbrev accessWf (c : Config) (off bits : Nat) : Prop :=
  off < 0x1000 + c.memSize ∧ (off < 0x1000 → bits = 32 ∧ off % 4 = 0) ∧ (0x1000 ≤ off → bits = 8)

/-- A statement of the host notation whose MEM addresses lie in MEM and whose text is ASCII (R87, K-5), and whose
command is one of the three (R88). -/
abbrev HostStmt.wf (c : Config) : HostStmt → Prop
  | .wr _ _ => True
  | .rd _ => True
  | .sb a _ => a < c.memSize
  | .lb a => a < c.memSize
  | .sbs a text => a + text.length ≤ c.memSize ∧ ∀ ch ∈ text, ch.toNat < 128
  | .sbx a bytes => a + bytes.length ≤ c.memSize
  | .cmd w => legalWord w
  | .poll => True
  | .ack => True
  | .waitIrq => True
  | .rst => True

end Machine

end Sys2Proof
end

