-- ==== Sys2Proof/Safety.lean ====
section
/-! DEFINITION. The terms the statements use: bytes held in memory, what leaves everything but STATUS alone, the
spec's table of defined register bits, the invariant of the machine, and where a claim about a HOST program starts
and ends (spec/70_reset_and_hazards.md R193, R194). -/

namespace Sys2Proof.Machine

/-- The bytes `bs` are written at `a, a+1, ...`. -/
abbrev holdsAt (m : Memory) (a : Nat) (bs : List Byte) : Prop :=
  ∀ i, i < bs.length → Memory.read m (a + i) = bs[i]?

/-- Everything but STATUS is as in `s`; PEND, which is meaningless once a command has completed
(spec/60_exceptions.md R168), is left unsaid. -/
abbrev sameButStatus (s t : State) : Prop :=
  t.cfg = s.cfg ∧ t.ctrl = s.ctrl ∧ t.ops = s.ops ∧ t.res = s.res ∧ t.dec = s.dec ∧ t.mem = s.mem ∧ t.env = s.env

/-- STATUS after a successful completion, the result flags aside (spec/60_exceptions.md R168). -/
def completedStatus (t : Status) : Status := { t with busy := false, done := true, err := false, errcode := 0#4 }

/-- STATUS after a completion with the error code `code`, the result flags aside (R168). -/
def failedStatus (code : BitVec 4) (t : Status) : Status :=
  { t with busy := false, done := true, err := true, errcode := code }

/-- The command `i` completes in the state `s` with the error code `code`, and nothing but the completion fields
changes (spec/60_exceptions.md R167, R168). -/
abbrev failsWith (i : Instr) (s : State) (code : BitVec 4) : Prop :=
  ∃ t, exec i s = .next t ∧ t.status = failedStatus code s.status ∧ sameButStatus s t

/-- DECODE completes in the state `s` with the error code `code`; beside the completion fields only DEC_VALID and
MATCH change, to 0 (spec/41_codec.md R130, spec/60_exceptions.md R167). -/
abbrev decodeFailsWith (s : State) (code : BitVec 4) : Prop :=
  ∃ t, exec .decode s = .next t ∧
    t.status = failedStatus code { s.status with decValid := false, matched := false } ∧ sameButStatus s t

/-- The lowest unwritten address of `[a, a + n)` is `x`. -/
abbrev firstUnwritten (m : Memory) (a n x : Nat) : Prop :=
  (a ≤ x ∧ x < a + n) ∧ Memory.read m x = none ∧ ∀ y, a ≤ y → y < x → Memory.read m y ≠ none

/-- A 32-bit HOST read at host offset `off` returns `v` and changes nothing of the block
(spec/10_state.md R23, spec/20_memory.md R61). -/
abbrev readsAs (s : State) (off : Nat) (v : Word) : Prop :=
  hostMove (.read (s.cfg.iceBase + off) 32) s = .next (recordRead v (popProg s))

/-- A 32-bit HOST write of `v` at host offset `off` leads to the state `t`. -/
abbrev writesTo (s : State) (off : Nat) (v : Word) (t : State) : Prop :=
  hostMove (.write (s.cfg.iceBase + off) 32 v) s = .next t

/-- The registers of access RW (spec/10_state.md R22). -/
def isRw : RegName → Bool
  | .ctrl | .csAddr | .csLen | .echoId | .echoSeq | .plAddr | .plLen | .txAddr | .rxAddr | .rxLen => true
  | .cmd | .status | .csSum | .csResult | .txLen | .decType | .decCode | .decCsum | .decId | .decSeq | .decIhl
  | .decPlAddr | .decPlLen => false

/-- The registers of access RO (R22); CMD is WO and STATUS has W1C fields. -/
def isRo : RegName → Bool
  | .csSum | .csResult | .txLen | .decType | .decCode | .decCsum | .decId | .decSeq | .decIhl | .decPlAddr
  | .decPlLen => true
  | .ctrl | .cmd | .status | .csAddr | .csLen | .echoId | .echoSeq | .plAddr | .plLen | .txAddr | .rxAddr
  | .rxLen => false

/-- How many low bits of a register a read can return, the "defined bits" column of R22; CMD reads 0. -/
def definedBits : RegName → Nat
  | .ctrl => 2
  | .cmd => 0
  | .status => 12
  | .csSum | .csResult | .echoId | .echoSeq | .decCsum | .decId | .decSeq => 16
  | .decType | .decCode => 8
  | .decIhl => 6
  | .csAddr | .csLen | .plAddr | .plLen | .txAddr | .txLen | .rxAddr | .rxLen | .decPlAddr | .decPlLen => 32

/-! ### The invariant -/

/-- Memory is in canonical form and holds no byte outside MEM (spec/20_memory.md R60). -/
abbrev memoryInv (s : State) : Prop := Memory.wf s.mem ∧ ∀ c ∈ s.mem, c.1 < s.cfg.memSize

/-- STATUS: DONE excludes BUSY (spec/10_state.md R29), ERR says whether ERRCODE is nonzero (R30), ERRCODE is a code
that is produced (R32), a pending command has no error yet (R26), and MATCH comes with DEC_VALID (R35, R36). -/
abbrev statusInv (t : Status) : Prop :=
  (t.done = true → t.busy = false) ∧ (t.err = true ↔ t.errcode ≠ 0#4) ∧ t.errcode.toNat ≤ 6 ∧
    (t.busy = true → t.err = false) ∧ (t.matched = true → t.decValid = true)

/-- CSUM_ZERO is the flag of CS_SUM (R33), CS_RESULT is the complement of CS_SUM once a sum has been computed (R41),
and TX_LEN is 0 or a packet's length (R47). -/
abbrev resultInv (s : State) : Prop :=
  (s.status.csumZero = true ↔ s.res.csSum = 0xFFFF#16) ∧
    (s.res.csResult = ~~~s.res.csSum ∨ (s.res.csSum = 0#16 ∧ s.res.csResult = 0#16)) ∧
    (s.res.txLen = 0#32 ∨ (8 ≤ s.res.txLen.toNat ∧ s.res.txLen.toNat ≤ 1032))

/-- While DEC_VALID = 1 the decoded header length is a legal one (R55), the decoded payload lies in MEM (R56, R57),
and a match has type 0 (R36). -/
abbrev decodeInv (s : State) : Prop :=
  (s.status.decValid = true →
      20 ≤ s.dec.ihl.toNat ∧ s.dec.ihl.toNat ≤ 60 ∧ s.dec.ihl.toNat % 4 = 0 ∧
        s.dec.ihl.toNat + 8 ≤ s.dec.plAddr.toNat ∧
        s.dec.plAddr.toNat + s.dec.plLen.toNat ≤ s.cfg.memSize) ∧
    (s.status.matched = true → s.dec.type = 0#8)

/-- The invariant of the machine. -/
abbrev State.Inv (s : State) : Prop :=
  s.cfg.wf ∧ memoryInv s ∧ statusInv s.status ∧ resultInv s ∧ decodeInv s

/-! ### Claims about a HOST program -/

/-- `k` steps, stopping at the first fault or refusal. -/
def stepTimes : Nat → State → Host.Outcome State Fault Refusal
  | 0, s => .next s
  | k + 1, s =>
    match step s with
    | .next t => stepTimes k t
    | .fault f => .fault f
    | .refused r => .refused r

/-- Where a claim about a HOST program starts (R193); that no model fault is recorded needs no saying, since a
faulted run has no later state. -/
abbrev State.launchable (s : State) : Prop := s.status.busy = false ∧ s.status.ovr = false

/-- Where a run of a HOST program ends (R194). -/
abbrev State.final (s : State) : Prop := s.env.prog = [] ∧ s.status.busy = false

end Sys2Proof.Machine
end

