-- ==== Sys2Proof/Certificates/Slice0/Obligations.lean ====
section
/-! DEFINITION. The statements for the provers. Each docstring names the rules of spec/ it formalises, or the sections
it rests on; OBLIGATIONS.json lists them. -/

open Sys2Proof Sys2Proof.Machine

/-! ## Encoding -/

/-- R82: the opcode map, and every 32-bit word decodes to a command exactly if it is that command's word; every other
word is rejected. -/
def Obligations.OneWordPerCommand : Prop :=
  (encode .csum = 0x00000001#32 ∧ encode .buildEcho = 0x00000002#32 ∧ encode .decode = 0x00000003#32) ∧
    ∀ w : Word, (∀ i : Instr, decode w = .ok i ↔ w = encode i) ∧ ((∃ r, decode w = .error r) ↔ ¬legalWord w)

/-- spec/30_encoding.md 1 and spec/95_test_vectors.md 2.4: a few words, with the reason of each rejection. -/
def Obligations.CommandWordsDecode : Prop :=
  decode 0x00000001#32 = .ok .csum ∧ decode 0x00000002#32 = .ok .buildEcho ∧ decode 0x00000003#32 = .ok .decode ∧
    decode 0x00000000#32 = .error (.opIllegal 0x0#4) ∧ decode 0x00000004#32 = .error (.opIllegal 0x4#4) ∧
    decode 0x0000000F#32 = .error (.opIllegal 0xF#4) ∧ decode 0x00000011#32 = .error .rsvdNonzero ∧
    decode 0x80000001#32 = .error .rsvdNonzero ∧ decode 0xFFFFFFFF#32 = .error .rsvdNonzero

/-- R162, R85: ENGINE's step on an illegal word completes with ILLEGAL_CMD and changes nothing but the completion
fields (and the turn used up); a legal word never completes with that code. -/
def Obligations.IllegalWordCompletes : Prop :=
  ∀ s : State, s.status.busy = true → nextAgent s = .engine →
    (¬legalWord s.pend →
        ∃ t, step s = .next t ∧ t.status = failedStatus 1#4 s.status ∧ sameButStatus (takeTurn s) t) ∧
      (legalWord s.pend → ∀ t, step s = .next t → t.status.errcode ≠ 1#4)

/-! ## The checksum functions -/

/-- R100: the words of a byte list. -/
def Obligations.WordsPairBytes : Prop :=
  ∀ bs : List Byte,
    (wordsOf bs).length = (bs.length + 1) / 2 ∧
      (∀ i b0 b1, bs[2 * i]? = some b0 → bs[2 * i + 1]? = some b1 →
        ∃ w, (wordsOf bs)[i]? = some w ∧ w.toNat = b0.toNat * 256 + b1.toNat) ∧
      (∀ i b, bs.length = 2 * i + 1 → bs[2 * i]? = some b →
        ∃ w, (wordsOf bs)[i]? = some w ∧ w.toNat = b.toNat * 256)

/-- R101: Fold is the end-around-carry loop, each pass makes a value above 0xFFFF strictly smaller, and the result has
16 bits. -/
def Obligations.FoldEndAroundCarry : Prop :=
  ∀ x : Nat,
    (x ≤ 0xFFFF → fold x = x) ∧
      (0xFFFF < x → fold x = fold (x % 2 ^ 16 + x / 2 ^ 16) ∧ x % 2 ^ 16 + x / 2 ^ 16 < x) ∧ fold x ≤ 0xFFFF

/-- R105: the closed form of Fold and what follows from it. -/
def Obligations.FoldClosedForm : Prop :=
  (∀ x, fold x = 0 ↔ x = 0) ∧
    (∀ x, 0 < x → fold x = (x - 1) % 0xFFFF + 1 ∧ 1 ≤ fold x ∧ fold x ≤ 0xFFFF) ∧
    (∀ x y, fold (x + y) = fold (fold x + y)) ∧
    (∀ bs cs : List Byte, (wordsOf bs).Perm (wordsOf cs) → inetSum bs = inetSum cs) ∧
    (∀ bs : List Byte, (inetSum bs = 0 ↔ ∀ b ∈ bs, b = 0#8) ∧ (inetChecksum bs = 0xFFFF ↔ ∀ b ∈ bs, b = 0#8))

/-- R103: a 32-bit accumulator without reduction, folded once at the end, is exact for every buffer that fits in MEM;
folding after every addition gives the same sum. -/
def Obligations.AccumulatorIsExact : Prop :=
  ∀ (c : Config) (bs : List Byte), c.wf → bs.length ≤ c.memSize →
    wordSum (wordsOf bs) ≤ (c.memSize + 1) / 2 * 0xFFFF ∧
      (c.memSize + 1) / 2 * 0xFFFF ≤ 65536 * 0xFFFF ∧ 65536 * 0xFFFF < 2 ^ 32 ∧
      fold ((wordsOf bs).foldl (fun acc w => acc + w.setWidth 32) 0#32).toNat = inetSum bs ∧
      (wordsOf bs).foldl (fun acc w => fold (acc + w.toNat)) 0 = inetSum bs

/-- R107: an odd-length buffer and the same buffer padded with one zero byte. -/
def Obligations.OddLengthLaw : Prop :=
  ∀ bs : List Byte, bs.length % 2 = 1 →
    wordsOf (bs ++ [0#8]) = wordsOf bs ∧ inetSum (bs ++ [0#8]) = inetSum bs ∧
      inetChecksum (bs ++ [0#8]) = inetChecksum bs

/-- R108: the checksum depends on the bytes alone, wherever they lie, and not on the order of the 16-bit words; moving
a byte by one position can change it. -/
def Obligations.SymmetryLaw : Prop :=
  (∀ (s u t v : State) (bs : List Byte), exec .csum s = .next t → exec .csum u = .next v →
      t.status.err = false → v.status.err = false →
      s.ops.csLen.toNat = bs.length → u.ops.csLen.toNat = bs.length →
      holdsAt s.mem s.ops.csAddr.toNat bs → holdsAt u.mem u.ops.csAddr.toNat bs →
      t.res.csSum = v.res.csSum ∧ t.res.csResult = v.res.csResult ∧ t.status.csumZero = v.status.csumZero) ∧
    (∀ bs cs : List Byte, (wordsOf bs).Perm (wordsOf cs) → inetChecksum bs = inetChecksum cs) ∧
    inetChecksum [0x00#8, 0x01#8] = 0xFFFE ∧ inetChecksum [0x01#8, 0x00#8] = 0xFEFF

/-- R109: little-endian assembly gives the byte swap of the folded sum and of the checksum, and stored little-endian
the same two packet bytes. -/
def Obligations.ByteOrderLaw : Prop :=
  ∀ bs : List Byte,
    let little := fold (wordSum (wordsLittle bs))
    let littleChecksum := BitVec.ofNat 16 (0xFFFF - little)
    let big := BitVec.ofNat 16 (inetSum bs)
    let bigChecksum := BitVec.ofNat 16 (inetChecksum bs)
    little ≤ 0xFFFF ∧ BitVec.ofNat 16 little = swap16 big ∧ littleChecksum = swap16 bigChecksum ∧
      lo8 littleChecksum = hi8 bigChecksum ∧ hi8 littleChecksum = lo8 bigChecksum

/-- R106: a checksum computed over a zero field at an even offset and inserted there verifies: the folded sum is
0xFFFF, the checksum 0x0000, and CSUM over such a buffer says so; zeroing the field again gives the checksum back. -/
def Obligations.VerificationLaw : Prop :=
  ∀ front rest : List Byte, front.length % 2 = 0 →
    let zeroed := front ++ [0#8, 0#8] ++ rest
    let c := BitVec.ofNat 16 (inetChecksum zeroed)
    let filled := front ++ [hi8 c, lo8 c] ++ rest
    inetSum filled = 0xFFFF ∧ inetChecksum filled = 0 ∧
      inetChecksum ((filled.set front.length 0#8).set (front.length + 1) 0#8) = c.toNat ∧
      ∀ s : State, s.ops.csAddr.toNat + s.ops.csLen.toNat ≤ s.cfg.memSize → s.ops.csLen.toNat = filled.length →
        holdsAt s.mem s.ops.csAddr.toNat filled →
        ∃ t, exec .csum s = .next t ∧ t.res.csSum = 0xFFFF#16 ∧ t.res.csResult = 0x0000#16 ∧
          t.status.csumZero = true

/-! ## CSUM -/

/-- R104: CSUM. BAD_RANGE exactly past MEM_SIZE, in exact arithmetic; else the sum, the checksum and the flag of the
bytes, or UNINIT_READ at the lowest unwritten one; nothing else changes. With the rule's command word and its own
numeric examples. -/
def Obligations.CsumCommand : Prop :=
  (∀ s : State,
    (s.cfg.memSize < s.ops.csAddr.toNat + s.ops.csLen.toNat → failsWith .csum s 2#4) ∧
      (s.ops.csAddr.toNat + s.ops.csLen.toNat ≤ s.cfg.memSize → ∀ bs : List Byte, bs.length = s.ops.csLen.toNat →
        holdsAt s.mem s.ops.csAddr.toNat bs →
        ∃ t, exec .csum s = .next t ∧
          t.res = { s.res with csSum := BitVec.ofNat 16 (inetSum bs), csResult := BitVec.ofNat 16 (0xFFFF - inetSum bs) } ∧
          t.status = { completedStatus s.status with csumZero := decide (inetSum bs = 0xFFFF) } ∧
          t.cfg = s.cfg ∧ t.ctrl = s.ctrl ∧ t.ops = s.ops ∧ t.dec = s.dec ∧ t.mem = s.mem ∧ t.env = s.env) ∧
      (s.ops.csAddr.toNat + s.ops.csLen.toNat ≤ s.cfg.memSize → ∀ x,
        firstUnwritten s.mem s.ops.csAddr.toNat s.ops.csLen.toNat x →
        exec .csum s = .fault (.uninitRead .csum x))) ∧
    encode .csum = 0x00000001#32 ∧ inetSum [] = 0 ∧ inetSum [0xFF#8, 0xFF#8, 0xFF#8, 0xFF#8, 0x00#8, 0x01#8] = 1 ∧
    inetSum [0xFF#8, 0xFF#8, 0x00#8, 0x01#8] = 1

/-! ## BUILD_ECHO -/

/-- R123, R124 with spec/41_codec.md 1: where none of its tests fails and the payload is written, BUILD_ECHO writes the
header of an Echo Request, its checksum over exactly the transmitted bytes, and the payload, and leaves every other
byte and register as it was. -/
def Obligations.BuildEchoBuilds : Prop :=
  ∀ (s : State) (pl : List Byte),
    let n := s.ops.plLen.toNat
    let e := min n 1024
    let p := s.ops.plAddr.toNat
    let tx := s.ops.txAddr.toNat
    let id := s.ops.echoId
    let sq := s.ops.echoSeq
    let sum := inetSum ([0x08#8, 0x00#8, 0x00#8, 0x00#8, hi8 id, lo8 id, hi8 sq, lo8 sq] ++ pl)
    let c := BitVec.ofNat 16 (0xFFFF - sum)
    ¬(s.ctrl.truncFail = true ∧ 1024 < n) → p + e ≤ s.cfg.memSize → tx + (8 + e) ≤ s.cfg.memSize →
      ¬(0 < e ∧ p < tx + 8 + e ∧ tx < p + e) → pl.length = e → holdsAt s.mem p pl →
      ∃ t, exec .buildEcho s = .next t ∧
        (∀ x, Memory.read t.mem x =
          if tx ≤ x ∧ x < tx + (8 + e) then
            ([0x08#8, 0x00#8, hi8 c, lo8 c, hi8 id, lo8 id, hi8 sq, lo8 sq] ++ pl)[x - tx]?
          else Memory.read s.mem x) ∧
        t.res = { csSum := BitVec.ofNat 16 sum, csResult := c, txLen := BitVec.ofNat 32 (8 + e) } ∧
        t.status =
          { completedStatus s.status with csumZero := decide (sum = 0xFFFF), trunc := decide (1024 < n) } ∧
        t.cfg = s.cfg ∧ t.ctrl = s.ctrl ∧ t.ops = s.ops ∧ t.dec = s.dec ∧ t.env = s.env

/-- R170, R163, R164: BUILD_ECHO reports its first failing test, in this order, and writes nothing. -/
def Obligations.BuildEchoErrorsInOrder : Prop :=
  ∀ s : State,
    let n := s.ops.plLen.toNat
    let e := min n 1024
    let p := s.ops.plAddr.toNat
    let tx := s.ops.txAddr.toNat
    (s.ctrl.truncFail = true ∧ 1024 < n → failsWith .buildEcho s 3#4) ∧
      (¬(s.ctrl.truncFail = true ∧ 1024 < n) →
        (s.cfg.memSize < p + e → failsWith .buildEcho s 2#4) ∧
          (p + e ≤ s.cfg.memSize →
            (s.cfg.memSize < tx + (8 + e) → failsWith .buildEcho s 2#4) ∧
              (tx + (8 + e) ≤ s.cfg.memSize → 0 < e ∧ p < tx + 8 + e ∧ tx < p + e → failsWith .buildEcho s 4#4)))

/-- spec/41_codec.md 1 and spec/20_memory.md 3: past its tests, BUILD_ECHO stops at the lowest unwritten payload byte. -/
def Obligations.BuildEchoStopsOnUnwritten : Prop :=
  ∀ (s : State) (x : Nat),
    let n := s.ops.plLen.toNat
    let e := min n 1024
    let p := s.ops.plAddr.toNat
    let tx := s.ops.txAddr.toNat
    ¬(s.ctrl.truncFail = true ∧ 1024 < n) → p + e ≤ s.cfg.memSize → tx + (8 + e) ≤ s.cfg.memSize →
      ¬(0 < e ∧ p < tx + 8 + e ∧ tx < p + e) → firstUnwritten s.mem p e x →
      exec .buildEcho s = .fault (.uninitRead .buildEcho x)

/-- R126: two requests built with different ECHO_ID values differ in bytes 4 and 5. -/
def Obligations.IdentifierLaw : Prop :=
  ∀ s u t v : State, s.ops.echoId ≠ u.ops.echoId → exec .buildEcho s = .next t → exec .buildEcho u = .next v →
    t.status.err = false → v.status.err = false →
    ¬(Memory.read t.mem (s.ops.txAddr.toNat + 4) = Memory.read v.mem (u.ops.txAddr.toNat + 4) ∧
        Memory.read t.mem (s.ops.txAddr.toNat + 5) = Memory.read v.mem (u.ops.txAddr.toNat + 5))

/-- spec/40_checksum.md 3 and spec/41_codec.md 1: CSUM over the bytes a successful BUILD_ECHO built verifies. -/
def Obligations.BuiltPacketVerifies : Prop :=
  ∀ s t u : State, exec .buildEcho s = .next t → t.status.err = false →
    u.ops.csLen = t.res.txLen → u.ops.csAddr.toNat + u.ops.csLen.toNat ≤ u.cfg.memSize →
    (∀ i, i < t.res.txLen.toNat →
      Memory.read u.mem (u.ops.csAddr.toNat + i) = Memory.read t.mem (s.ops.txAddr.toNat + i)) →
    ∃ v, exec .csum u = .next v ∧ v.res.csSum = 0xFFFF#16 ∧ v.res.csResult = 0x0000#16 ∧ v.status.csumZero = true

/-! ## DECODE -/

/-- R132, R134, R135, R137: where none of its tests fails and the bytes it reads are written, DECODE latches the fields
of the header behind the IP header, the place and length of the payload, and the match; nothing else changes. -/
def Obligations.DecodeDecodes : Prop :=
  ∀ (s : State) (b0 h0 h1 h2 h3 h4 h5 h6 h7 : Byte),
    let r := s.ops.rxAddr.toNat
    let n := s.ops.rxLen.toNat
    let ihl := b0.toNat % 16 * 4
    s.cfg.wf → r + n ≤ s.cfg.memSize → Memory.read s.mem r = some b0 → 5 ≤ b0.toNat % 16 → ihl + 8 ≤ n →
      holdsAt s.mem (r + ihl) [h0, h1, h2, h3, h4, h5, h6, h7] →
      ∃ t, exec .decode s = .next t ∧
        t.dec.type = h0 ∧ t.dec.code = h1 ∧ t.dec.csum.toNat = h2.toNat * 256 + h3.toNat ∧
        t.dec.id.toNat = h4.toNat * 256 + h5.toNat ∧ t.dec.seq.toNat = h6.toNat * 256 + h7.toNat ∧
        t.dec.ihl.toNat = ihl ∧ t.dec.plAddr.toNat = r + ihl + 8 ∧ t.dec.plLen.toNat = n - ihl - 8 ∧
        t.status =
          { completedStatus s.status with
            decValid := true, matched := decide (h0 = 0#8 ∧ h4 ++ h5 = s.ops.echoId) } ∧
        t.cfg = s.cfg ∧ t.ctrl = s.ctrl ∧ t.ops = s.ops ∧ t.res = s.res ∧ t.mem = s.mem ∧ t.env = s.env

/-- R171, R166, R169: DECODE reports its first failing test, in this order, clears DEC_VALID and MATCH, and changes
nothing else. -/
def Obligations.DecodeErrorsInOrder : Prop :=
  ∀ s : State,
    let r := s.ops.rxAddr.toNat
    let n := s.ops.rxLen.toNat
    (s.cfg.memSize < r + n → decodeFailsWith s 2#4) ∧
      (r + n ≤ s.cfg.memSize →
        (n = 0 → decodeFailsWith s 6#4) ∧
          (n ≠ 0 → ∀ b0, Memory.read s.mem r = some b0 →
            (b0.toNat % 16 < 5 → decodeFailsWith s 5#4) ∧
              (5 ≤ b0.toNat % 16 → n < b0.toNat % 16 * 4 + 8 → decodeFailsWith s 6#4)))

/-- spec/41_codec.md 2 and spec/20_memory.md 3: DECODE stops at an unwritten first byte, and past its tests at the
lowest unwritten header byte. -/
def Obligations.DecodeStopsOnUnwritten : Prop :=
  ∀ s : State,
    let r := s.ops.rxAddr.toNat
    let n := s.ops.rxLen.toNat
    r + n ≤ s.cfg.memSize → n ≠ 0 →
      (Memory.read s.mem r = none → exec .decode s = .fault (.uninitRead .decode r)) ∧
        ∀ b0 x, Memory.read s.mem r = some b0 → 5 ≤ b0.toNat % 16 → b0.toNat % 16 * 4 + 8 ≤ n →
          firstUnwritten s.mem (r + b0.toNat % 16 * 4) 8 x → exec .decode s = .fault (.uninitRead .decode x)

/-- R131: DECODE reads the first byte and, only if it passes the IHL check, the eight header bytes: two memories that
agree there decode alike, whatever else differs or is unwritten. Its footprint is the whole datagram all the same. -/
def Obligations.DecodeReadsNineBytes : Prop :=
  (∀ (s : State) (m : Memory),
    Memory.read m s.ops.rxAddr.toNat = Memory.read s.mem s.ops.rxAddr.toNat →
    (∀ b0, Memory.read s.mem s.ops.rxAddr.toNat = some b0 → 5 ≤ b0.toNat % 16 → ∀ i, i < 8 →
      Memory.read m (s.ops.rxAddr.toNat + b0.toNat % 16 * 4 + i) =
        Memory.read s.mem (s.ops.rxAddr.toNat + b0.toNat % 16 * 4 + i)) →
    (∀ t, exec .decode s = .next t → exec .decode { s with mem := m } = .next { t with mem := m }) ∧
      ∀ f, exec .decode s = .fault f → exec .decode { s with mem := m } = .fault f) ∧
    ∀ (s : State) (x : Nat), fetch s = .ok .decode → commandError .decode s = none →
      (inReadFootprint s x = true ↔
        s.ops.rxAddr.toNat ≤ x ∧ x < s.ops.rxAddr.toNat + s.ops.rxLen.toNat)

/-- R127: a request built by BUILD_ECHO and put behind an IP header of `4k` bytes decodes to the fields and the payload
it was built from, and is no match, its type being 8. -/
def Obligations.RoundTrip : Prop :=
  ∀ (s t u : State) (k : Nat) (b0 : Byte), exec .buildEcho s = .next t → t.status.err = false →
    s.ops.plLen.toNat ≤ 1024 → 5 ≤ k → k ≤ 15 → u.cfg.wf →
    Memory.read u.mem u.ops.rxAddr.toNat = some b0 → b0.toNat % 16 = k →
    u.ops.rxLen.toNat = 4 * k + t.res.txLen.toNat → u.ops.rxAddr.toNat + u.ops.rxLen.toNat ≤ u.cfg.memSize →
    (∀ i, i < t.res.txLen.toNat →
      Memory.read u.mem (u.ops.rxAddr.toNat + 4 * k + i) = Memory.read t.mem (s.ops.txAddr.toNat + i)) →
    ∃ v, exec .decode u = .next v ∧ v.status.err = false ∧ v.status.decValid = true ∧
      v.dec.type = 8#8 ∧ v.dec.code = 0#8 ∧ v.dec.id = s.ops.echoId ∧ v.dec.seq = s.ops.echoSeq ∧
      v.dec.csum = t.res.csResult ∧ v.dec.plLen = s.ops.plLen ∧
      (∀ i, i < s.ops.plLen.toNat →
        Memory.read v.mem (v.dec.plAddr.toNat + i) = Memory.read s.mem (s.ops.plAddr.toNat + i)) ∧
      v.status.matched = false

/-! ## All commands -/

/-- R168: the completion actions, for a command and for an illegal word. OVR is not touched, and irq rises if IE is
set. -/
def Obligations.CompletionActions : Prop :=
  (∀ (i : Instr) (s t : State), exec i s = .next t →
    t.status.busy = false ∧ t.status.done = true ∧ t.status.ovr = s.status.ovr ∧
      (∀ e, commandError i s = some e → t.status.err = true ∧ t.status.errcode = errorCode e) ∧
      (commandError i s = none → t.status.err = false ∧ t.status.errcode = 0#4) ∧
      (s.ctrl.ie = true → t.irq = true)) ∧
    ∀ s : State, (performIllegal s).status = failedStatus 1#4 s.status ∧
      (s.ctrl.ie = true → (performIllegal s).irq = true)

/-- R167: a command that raises an error changes nothing but the completion fields and, for DECODE, DEC_VALID and
MATCH. -/
def Obligations.ErrorsArePrecise : Prop :=
  ∀ (i : Instr) (s t : State), exec i s = .next t → t.status.err = true →
    sameButStatus s t ∧
      t.status = failedStatus t.status.errcode
        (match i with
          | .csum => s.status
          | .buildEcho => s.status
          | .decode => { s.status with decValid := false, matched := false })

/-- R33, R34, R36, with DEC_VALID and the relation of CS_RESULT to CS_SUM: which completion writes each result flag, and
with what; an illegal word and a command issue write none of them. -/
def Obligations.ResultFlags : Prop :=
  (∀ (i : Instr) (s t : State), exec i s = .next t →
    (t.status.err = false → i ≠ .decode →
        (t.status.csumZero = true ↔ t.res.csResult = 0x0000#16) ∧
          (t.status.csumZero = true ↔ t.res.csSum = 0xFFFF#16) ∧
          t.res.csResult.toNat = 0xFFFF - t.res.csSum.toNat) ∧
      (t.status.err = true ∨ i = .decode → t.status.csumZero = s.status.csumZero) ∧
      (t.status.err = false → i = .buildEcho → (t.status.trunc = true ↔ 1024 < s.ops.plLen.toNat)) ∧
      (t.status.err = true ∨ i ≠ .buildEcho → t.status.trunc = s.status.trunc) ∧
      (i = .decode → t.status.decValid = !t.status.err) ∧
      (i ≠ .decode → t.status.decValid = s.status.decValid) ∧
      (t.status.err = false → i = .decode →
        (t.status.matched = true ↔ t.dec.type = 0#8 ∧ t.dec.id = s.ops.echoId)) ∧
      (t.status.err = true → i = .decode → t.status.matched = false) ∧
      (i ≠ .decode → t.status.matched = s.status.matched)) ∧
    ∀ (s : State) (w : Word),
      ((performIllegal s).status.csumZero = s.status.csumZero ∧ (performIllegal s).status.trunc = s.status.trunc ∧
        (performIllegal s).status.decValid = s.status.decValid ∧
        (performIllegal s).status.matched = s.status.matched) ∧
      (issue w s).status.csumZero = s.status.csumZero ∧ (issue w s).status.trunc = s.status.trunc ∧
        (issue w s).status.decValid = s.status.decValid ∧ (issue w s).status.matched = s.status.matched

/-- spec/30_encoding.md 2: what each command leaves unchanged, on success and on error. -/
def Obligations.CommandFrames : Prop :=
  ∀ (i : Instr) (s t : State), exec i s = .next t →
    t.cfg = s.cfg ∧ t.ctrl = s.ctrl ∧ t.ops = s.ops ∧ t.env = s.env ∧ t.status.ovr = s.status.ovr ∧
      match i with
      | .csum =>
        t.dec = s.dec ∧ t.res.txLen = s.res.txLen ∧ t.status.trunc = s.status.trunc ∧
          t.status.decValid = s.status.decValid ∧ t.status.matched = s.status.matched ∧
          ∀ x, Memory.read t.mem x = Memory.read s.mem x
      | .buildEcho =>
        t.dec = s.dec ∧ t.status.decValid = s.status.decValid ∧ t.status.matched = s.status.matched ∧
          ∀ x, ¬(s.ops.txAddr.toNat ≤ x ∧ x < s.ops.txAddr.toNat + packetLen s) →
            Memory.read t.mem x = Memory.read s.mem x
      | .decode =>
        t.res = s.res ∧ t.status.csumZero = s.status.csumZero ∧ t.status.trunc = s.status.trunc ∧
          ∀ x, Memory.read t.mem x = Memory.read s.mem x

/-- spec/60_exceptions.md 1 (no command ever writes outside MEM) and spec/41_codec.md 1 (no write past
TX_ADDR + 8 + 1024 - 1): a byte that a command changes lies in MEM, in the packet, and below that bound. -/
def Obligations.WritesStayInMem : Prop :=
  ∀ (i : Instr) (s t : State) (x : Nat), exec i s = .next t → Memory.read t.mem x ≠ Memory.read s.mem x →
    i = .buildEcho ∧ x < s.cfg.memSize ∧ s.ops.txAddr.toNat ≤ x ∧ x < s.ops.txAddr.toNat + 8 + min s.ops.plLen.toNat 1024

/-- spec/60_exceptions.md 3: a command stops only with an UNINIT_READ naming itself and an unwritten byte of its read
range inside MEM, and only after every test of its own has passed. -/
def Obligations.UninitOnlyAfterTests : Prop :=
  ∀ (i : Instr) (s : State) (f : Fault), exec i s = .fault f →
    commandError i s = none ∧
      ∃ x, f = .uninitRead i x ∧ Memory.read s.mem x = none ∧ readRange i s x = true ∧ x < s.cfg.memSize

/-! ## One step -/

/-- spec/00_scope.md 4 and spec/30_encoding.md 1: on ENGINE's turn the step is the meaning of the command that PEND
decodes to, after the turn is used up; ENGINE has no step while BUSY = 0. Using up a turn touches the host side
alone. -/
def Obligations.StepRunsPendingCommand : Prop :=
  ∀ s : State, nextAgent s = .engine →
    (∀ i, s.status.busy = true → fetch s = .ok i → step s = exec i (takeTurn s)) ∧
      (s.status.busy = false → step s = .next (takeTurn s)) ∧
      (takeTurn s).cfg = s.cfg ∧ (takeTurn s).ctrl = s.ctrl ∧ (takeTurn s).status = s.status ∧
      (takeTurn s).ops = s.ops ∧ (takeTurn s).res = s.res ∧ (takeTurn s).dec = s.dec ∧
      (takeTurn s).pend = s.pend ∧ (takeTurn s).mem = s.mem ∧ (takeTurn s).env.prog = s.env.prog ∧
      (takeTurn s).env.reads = s.env.reads

/-- spec/20_memory.md 5: on HOST's turn the step is the first action of HOST's program, after the turn is used up. -/
def Obligations.StepRunsHostAction : Prop :=
  ∀ s : State, nextAgent s = .host →
    (∀ act rest, s.env.prog = act :: rest → step s = hostMove act (takeTurn s)) ∧
      (s.env.prog = [] → step s = .next (takeTurn s))

/-- spec/00_scope.md 4, the model's choice of notation (log 4): the schedule says who moves; past its end an agent that
alone has a move makes it. Where both have one the choice is free and nothing is said. -/
def Obligations.ScheduleNamesTheMover : Prop :=
  ∀ s : State,
    (∀ a rest, s.env.sched = a :: rest → nextAgent s = a ∧ (takeTurn s).env.sched = rest) ∧
      (s.env.sched = [] → s.status.busy = false → nextAgent s = .host) ∧
      (s.env.sched = [] → s.status.busy = true → s.env.prog = [] → nextAgent s = .engine)

/-- R190: the reset state, of which PEND is unspecified and left unsaid; MEM is unwritten after any reset. -/
def Obligations.ResetState : Prop :=
  (∀ r, regRead r State.reset = if r = .echoSeq then 0x00000001#32 else 0x00000000#32) ∧
    State.reset.irq = false ∧ State.reset.status = {} ∧ State.reset.ctrl.ie = false ∧
    (∀ a, Memory.read State.reset.mem a = none) ∧
    ∀ s : State, ∃ t, hostMove .rst s = .next t ∧ ∀ a, Memory.read t.mem a = none

/-- The invariant holds at reset. -/
def Obligations.ResetMeetsInvariant : Prop := State.reset.Inv

/-- Every step from a state that meets the invariant leads to one that meets it: memory stays canonical and inside MEM,
DONE excludes BUSY, ERR says whether ERRCODE is nonzero and a produced code, MATCH comes with DEC_VALID, CSUM_ZERO and
CS_RESULT follow CS_SUM, TX_LEN is a packet's length, and a valid decode lies inside MEM. -/
def Obligations.StepKeepsInvariant : Prop :=
  ∀ s t : State, s.Inv → step s = .next t → t.Inv

/-- spec/70_reset_and_hazards.md 1: `rst` at any time gives the reset state, abandons a pending command and leaves
every byte unwritten; a model fault, once taken, is kept whatever follows. That the parameters (logs 2 and 3) and the
host side (logs 4, 5 and 6) stay is the model's choice. -/
def Obligations.ResetInput : Prop :=
  (∀ (j k : Nat) (s : State) (f : Fault), stepTimes k s = .fault f → stepTimes (k + j) s = .fault f) ∧
  ∀ s : State, ∃ t, hostMove .rst s = .next t ∧ t.ctrl = State.reset.ctrl ∧ t.status = State.reset.status ∧
    t.ops = State.reset.ops ∧ t.res = State.reset.res ∧ t.dec = State.reset.dec ∧ t.irq = false ∧
    (∀ a, Memory.read t.mem a = none) ∧ t.cfg = s.cfg ∧ t.env = (popProg s).env

/-- spec/20_memory.md 5: while a command stays pending, no step changes the captured word, the control, operand and
result registers, the result fields of STATUS, or a byte of the command's footprint. -/
def Obligations.PendingCommandIsCaptured : Prop :=
  ∀ s t : State, s.status.busy = true → step s = .next t → t.status.busy = true →
    t.cfg = s.cfg ∧ t.pend = s.pend ∧ t.ctrl = s.ctrl ∧ t.ops = s.ops ∧ t.res = s.res ∧ t.dec = s.dec ∧
      t.status.err = s.status.err ∧ t.status.errcode = s.status.errcode ∧ t.status.csumZero = s.status.csumZero ∧
      t.status.trunc = s.status.trunc ∧ t.status.decValid = s.status.decValid ∧
      t.status.matched = s.status.matched ∧
      ∀ x, inReadFootprint s x = true ∨ inWriteFootprint s x = true → Memory.read t.mem x = Memory.read s.mem x

/-- R31: OVR is set by a dropped write, and by nothing else; it is cleared by a STATUS write with bit 3 = 1 or by
reset, and by nothing else. -/
def Obligations.OvrIsSticky : Prop :=
  ∀ s t : State, step s = .next t →
    (s.status.ovr = true → t.status.ovr = false →
        nextAgent s = .host ∧ ∃ rest, s.env.prog = .rst :: rest ∨
          ∃ v, s.env.prog = .write (hostAddr s.cfg 0x08) 32 v :: rest ∧ v.getLsbD 3 = true) ∧
      (s.status.ovr = false → t.status.ovr = true →
        nextAgent s = .host ∧ s.status.busy = true ∧ ∃ off v rest, off < 0x1000 ∧ off ≠ 0x08 ∧
          s.env.prog = .write (hostAddr s.cfg off) 32 v :: rest) ∧
      (∀ off v rest, nextAgent s = .host → s.status.busy = true → off < 0x1000 → off ≠ 0x08 →
        s.env.prog = .write (hostAddr s.cfg off) 32 v :: rest → t.status.ovr = true) ∧
      (∀ v rest, nextAgent s = .host → s.env.prog = .write (hostAddr s.cfg 0x08) 32 v :: rest →
        v.getLsbD 3 = true → t.status.ovr = false)

/-! ## The host port -/

/-- R26: a CMD write issues a command while BUSY = 0, whatever its word, and is dropped with OVR set while BUSY = 1; a
read of CMD gives 0. The word is decoded only when ENGINE moves, and one that is no command then completes with
ILLEGAL_CMD. -/
def Obligations.CmdIssue : Prop :=
  ∀ (s : State) (w : Word),
    (s.status.busy = false → ∃ t, hostMove (writeReg s.cfg .cmd w) s = .next t ∧ t.pend = w ∧ fetch t = decode w ∧
      t.status = { s.status with busy := true, done := false, err := false, errcode := 0#4 } ∧
      sameButStatus (popProg s) t ∧
      (¬legalWord w → ∃ u, engineMove t = .next u ∧ u.status = failedStatus 1#4 t.status)) ∧
      (s.status.busy = true → ∃ t, hostMove (writeReg s.cfg .cmd w) s = .next t ∧ t.pend = s.pend ∧
        t.status = { s.status with ovr := true } ∧ sameButStatus (popProg s) t) ∧
      ∃ t, hostMove (.read (hostAddr s.cfg 0x04) 32) s = .next t ∧ t.env.reads = 0#32 :: s.env.reads

/-- R37: a STATUS write clears DONE by bit 1 and OVR by bit 3, ignores its other bits, and is never dropped. -/
def Obligations.StatusWrite : Prop :=
  ∀ (s : State) (v : Word), ∃ t, hostMove (writeReg s.cfg .status v) s = .next t ∧
    t.status =
      { s.status with
        done := if v.getLsbD 1 = true then false else s.status.done
        ovr := if v.getLsbD 3 = true then false else s.status.ovr } ∧
    t.pend = s.pend ∧ sameButStatus (popProg s) t

/-- R195: while BUSY = 1 a write to any register or reserved offset but STATUS changes nothing but OVR; STATUS writes
and reads are not dropped. -/
def Obligations.BusyWritesDropped : Prop :=
  ∀ (s : State) (off : Nat) (v : Word), s.status.busy = true → off < 0x1000 → off % 4 = 0 →
    (off ≠ 0x08 → ∃ t, hostMove (.write (hostAddr s.cfg off) 32 v) s = .next t ∧
      t.status = { s.status with ovr := true } ∧ t.pend = s.pend ∧ sameButStatus (popProg s) t) ∧
      (off = 0x08 → hostMove (.write (hostAddr s.cfg off) 32 v) s = .next (statusWrite v (popProg s))) ∧
      hostMove (.read (hostAddr s.cfg off) 32) s = .next (recordRead (windowRead off s) (popProg s))

/-- R23: register access. (a) Any other width or alignment is refused; (b) undefined bits read 0; (c) a RO write is
ignored; (d) a read changes no register; (e) a RW write stores the defined bits of its own register and touches no
other. While BUSY = 1 a write to any register but STATUS is dropped and sets OVR; bits outside the defined bits do not
matter in a write (all of CMD's are defined). -/
def Obligations.RegisterAccess : Prop :=
  (∀ (s : State) (off bits : Nat) (v : Word), off < 0x100 → ¬(bits = 32 ∧ off % 4 = 0) →
    (∃ r, hostMove (.read (hostAddr s.cfg off) bits) s = .refused r) ∧
      ∃ r, hostMove (.write (hostAddr s.cfg off) bits v) s = .refused r) ∧
    (∀ (s : State) (r : RegName), (regRead r s).toNat < 2 ^ definedBits r) ∧
    (∀ (s : State) (r : RegName) (v : Word), s.status.busy = false → isRo r = true →
      hostMove (writeReg s.cfg r v) s = .next (popProg s)) ∧
    (∀ (s : State) (r : RegName), ∃ t, hostMove (.read (hostAddr s.cfg (regOffset r)) 32) s = .next t ∧
      t.env.reads = regRead r s :: s.env.reads ∧ ∀ q, regRead q t = regRead q s) ∧
    (∀ (s : State) (r : RegName) (v : Word), s.status.busy = false → isRw r = true →
      ∃ t, hostMove (writeReg s.cfg r v) s = .next t ∧
        regRead r t = v &&& BitVec.ofNat 32 (2 ^ definedBits r - 1) ∧
        (∀ q, q ≠ r → regRead q t = regRead q s) ∧ t.mem = s.mem) ∧
    (∀ (s : State) (r : RegName) (v : Word), s.status.busy = true → r ≠ .status →
      hostMove (writeReg s.cfg r v) s = .next (setOvr (popProg s))) ∧
    ∀ (s : State) (r : RegName) (v : Word), r ≠ .cmd →
      hostMove (writeReg s.cfg r (v &&& BitVec.ofNat 32 (2 ^ definedBits r - 1))) s = hostMove (writeReg s.cfg r v) s

/-- R63: the refused host accesses, by host offset, are exactly those the interface does not define. -/
def Obligations.UndefinedAccessesRefused : Prop :=
  ∀ (s : State) (off bits : Nat) (v : Word),
    ((∃ r, hostMove (.read (hostAddr s.cfg off) bits) s = .refused r) ↔ ¬accessWf s.cfg off bits) ∧
      ((∃ r, hostMove (.write (hostAddr s.cfg off) bits v) s = .refused r) ↔ ¬accessWf s.cfg off bits)

/-- R24, with the reserved region of spec/20_memory.md 1: a reserved offset reads 0 and ignores a write, which sets OVR
while BUSY = 1. -/
def Obligations.ReservedOffsets : Prop :=
  ∀ (s : State) (off : Nat) (v : Word), 0x5C ≤ off → off < 0x1000 → off % 4 = 0 →
    (∃ t, hostMove (.read (hostAddr s.cfg off) 32) s = .next t ∧ t.env.reads = 0#32 :: s.env.reads) ∧
      (s.status.busy = false → hostMove (.write (hostAddr s.cfg off) 32 v) s = .next (popProg s)) ∧
      (s.status.busy = true → hostMove (.write (hostAddr s.cfg off) 32 v) s = .next (setOvr (popProg s)))

/-- R62: the MEM window while no command is pending. It is reached by 8-bit accesses only; a byte write sets and marks
that byte and nothing else; a byte read of a written byte returns it and changes nothing of the block. -/
def Obligations.MemWindow : Prop :=
  ∀ (s : State) (a : Nat) (b : Byte), s.status.busy = false → a < s.cfg.memSize →
    (∀ (bits : Nat) (v : Word), bits ≠ 8 →
      (∃ r, hostMove (.read (hostAddr s.cfg (0x1000 + a)) bits) s = .refused r) ∧
        ∃ r, hostMove (.write (hostAddr s.cfg (0x1000 + a)) bits v) s = .refused r) ∧
    (∃ t, hostMove (storeByte s.cfg a b) s = .next t ∧
      (∀ x, Memory.read t.mem x = if x = a then some b else Memory.read s.mem x) ∧
      t = { popProg s with mem := t.mem }) ∧
      (Memory.read s.mem a = some b →
        hostMove (.read (hostAddr s.cfg (0x1000 + a)) 8) s = .next (recordRead (b.setWidth 32) (popProg s)))

/-- spec/20_memory.md 3: a HOST read of an unwritten byte returns the next free byte, and the byte stays unwritten. A
statement about a free value, so it holds whatever that byte is (log 6). -/
def Obligations.UnwrittenHostReadDraws : Prop :=
  ∀ (s : State) (a : Nat), a < s.cfg.memSize → Memory.read s.mem a = none →
    ∃ t, hostMove (.read (hostAddr s.cfg (0x1000 + a)) 8) s = .next t ∧
      t.env.reads = (Config.freeByte s.env.draws).setWidth 32 :: s.env.reads ∧
      t.env.draws = s.env.draws + 1 ∧ t.mem = s.mem ∧ t.status = s.status

/-- spec/70_reset_and_hazards.md 3, with the model's reading of "will raise an error" (DEDUCED, log 7): while BUSY = 1 a
HOST write into the pending command's footprint is HAZARD; a write outside it, before and after, lands. -/
def Obligations.MemoryWriteHazard : Prop :=
  ∀ (s : State) (a : Nat) (b : Byte), s.status.busy = true → a < s.cfg.memSize →
    (inReadFootprint s a = true ∨ inWriteFootprint s a = true →
        hostMove (storeByte s.cfg a b) s = .fault (.hazard a)) ∧
      (inReadFootprint s a = false → inWriteFootprint s a = false →
        inReadFootprint (memWrite a [b] s) a = false → inWriteFootprint (memWrite a [b] s) a = false →
        ∃ t, hostMove (storeByte s.cfg a b) s = .next t ∧
          ∀ x, Memory.read t.mem x = if x = a then some b else Memory.read s.mem x)

/-- spec/70_reset_and_hazards.md 3: while BUSY = 1 a HOST read in the pending write footprint is a free byte; a read of
any other written byte returns its value. -/
def Obligations.MemoryReadHazard : Prop :=
  ∀ (s : State) (a : Nat), s.status.busy = true → a < s.cfg.memSize →
    (inWriteFootprint s a = true →
        ∃ t, hostMove (.read (hostAddr s.cfg (0x1000 + a)) 8) s = .next t ∧
          t.env.reads = (Config.freeByte s.env.draws).setWidth 32 :: s.env.reads ∧
          t.env.draws = s.env.draws + 1 ∧ t.mem = s.mem) ∧
      (inWriteFootprint s a = false → ∀ b, Memory.read s.mem a = some b →
        hostMove (.read (hostAddr s.cfg (0x1000 + a)) 8) s = .next (recordRead (b.setWidth 32) (popProg s)))

/-- R196: the footprints. Empty for an illegal word and for a command that raises an error, else by the table. -/
def Obligations.Footprints : Prop :=
  ∀ (s : State) (x : Nat),
    (¬legalWord s.pend → inReadFootprint s x = false ∧ inWriteFootprint s x = false) ∧
      ∀ i, fetch s = .ok i →
        (commandError i s ≠ none → inReadFootprint s x = false ∧ inWriteFootprint s x = false) ∧
          (commandError i s = none →
            match i with
            | .csum =>
              (inReadFootprint s x = true ↔
                  s.ops.csAddr.toNat ≤ x ∧ x < s.ops.csAddr.toNat + s.ops.csLen.toNat) ∧
                inWriteFootprint s x = false
            | .buildEcho =>
              (inReadFootprint s x = true ↔
                  s.ops.plAddr.toNat ≤ x ∧ x < s.ops.plAddr.toNat + min s.ops.plLen.toNat 1024) ∧
                (inWriteFootprint s x = true ↔
                  s.ops.txAddr.toNat ≤ x ∧ x < s.ops.txAddr.toNat + 8 + min s.ops.plLen.toNat 1024)
            | .decode =>
              (inReadFootprint s x = true ↔
                  s.ops.rxAddr.toNat ≤ x ∧ x < s.ops.rxAddr.toNat + s.ops.rxLen.toNat) ∧
                inWriteFootprint s x = false)

/-- R59, with spec/60_exceptions.md 4: irq is CTRL.IE and STATUS.DONE; ACK, the next issue and IE <- 0 lower it, the
last without clearing DONE; it is 0 at reset. -/
def Obligations.IrqFollowsDone : Prop :=
  (∀ s : State, s.irq = true ↔ s.ctrl.ie = true ∧ s.status.done = true) ∧ State.reset.irq = false ∧
    ∀ (s : State) (w : Word), s.status.busy = false →
      (∀ t, hostMove (writeReg s.cfg .status 0x00000002#32) s = .next t → t.irq = false) ∧
        (∀ t, hostMove (writeReg s.cfg .cmd w) s = .next t → t.irq = false) ∧
        (∀ t, w.getLsbD 0 = false → hostMove (writeReg s.cfg .ctrl w) s = .next t →
          t.irq = false ∧ t.status.done = s.status.done)

/-- spec/30_encoding.md 4 and spec/70_reset_and_hazards.md 4: a POLL that HOST repeats any number of times before
ENGINE's step ends with HOST's next turn after it, having read STATUS with BUSY = 0, if no model fault came between.
The schedule (log 4) and POLL as one action that repeats its read (log 9) are the model's choices. -/
def Obligations.PollEnds : Prop :=
  ∀ (k : Nat) (s u : State) (rest : List HostAct), s.status.busy = true → s.env.prog = .poll :: rest →
    s.env.sched = List.replicate k .host ++ [.engine, .host] → stepTimes (k + 1) s = .next u →
    ∃ v : State, stepTimes (k + 2) s = .next v ∧ v.env.prog = rest ∧ v.status = u.status ∧
      v.status.busy = false ∧ v.status.done = true ∧ v.env.reads.head? = some (statusWord u.status)

/-- The canonical form of memory (notes/assumptions/2.md): two canonical memories that read alike at every address are
the same data. -/
def Obligations.CanonicalMemoryUnique : Prop :=
  ∀ m n : Memory, Memory.wf m → Memory.wf n → (∀ a, Memory.read m a = Memory.read n a) → m = n

/-- spec/30_encoding.md 4: the host notation and its pseudo-statements CMD, POLL and ACK. POLL as one action that
repeats its read, the codes of a text, and the data of an 8-bit write zero-extended to 32 bits are the model's reading
and notation (log 9). -/
def Obligations.HostNotation : Prop :=
  ∀ (c : Config) (r : RegName) (v : Word) (a : Nat) (b : Byte) (bs : List Byte) (text : List Char),
    expand c (.wr r v) = [.write (c.iceBase + regOffset r) 32 v] ∧
      expand c (.rd r) = [.read (c.iceBase + regOffset r) 32] ∧
      expand c (.sb a b) = [.write (c.iceBase + (0x1000 + a)) 8 (b.setWidth 32)] ∧
      expand c (.lb a) = [.read (c.iceBase + (0x1000 + a)) 8] ∧
      expand c (.sbx a []) = [] ∧
      expand c (.sbx a (b :: bs)) = expand c (.sb a b) ++ expand c (.sbx (a + 1) bs) ∧
      expand c (.sbs a text) = expand c (.sbx a (text.map fun ch => BitVec.ofNat 8 ch.toNat)) ∧
      expand c (.cmd v) = expand c (.wr .cmd v) ∧
      expand c .ack = expand c (.wr .status 0x00000002#32) ∧
      expand c .poll = [.poll] ∧
      ∀ s : State, hostMove .poll s =
        .next (if s.status.busy = true then recordRead (statusWord s.status) s
          else popProg (recordRead (statusWord s.status) s))

/-! ## The register map -/

/-- R22: the register map by raw host offset. What each offset reads as, what a write to it changes while BUSY = 0 (RW
stores its defined bits, RO and reserved ignore, CMD issues, STATUS clears its W1C fields), what it reads as at reset,
and which name stands for it. -/
def Obligations.RegisterMap : Prop :=
  (∀ s : State,
    readsAs s 0x00 (ctrlWord s.ctrl) ∧ readsAs s 0x04 0#32 ∧ readsAs s 0x08 (statusWord s.status) ∧
      readsAs s 0x0C s.ops.csAddr ∧ readsAs s 0x10 s.ops.csLen ∧
      readsAs s 0x14 (s.res.csSum.setWidth 32) ∧ readsAs s 0x18 (s.res.csResult.setWidth 32) ∧
      readsAs s 0x1C (s.ops.echoId.setWidth 32) ∧ readsAs s 0x20 (s.ops.echoSeq.setWidth 32) ∧
      readsAs s 0x24 s.ops.plAddr ∧ readsAs s 0x28 s.ops.plLen ∧ readsAs s 0x2C s.ops.txAddr ∧
      readsAs s 0x30 s.res.txLen ∧ readsAs s 0x34 s.ops.rxAddr ∧ readsAs s 0x38 s.ops.rxLen ∧
      readsAs s 0x3C (s.dec.type.setWidth 32) ∧ readsAs s 0x40 (s.dec.code.setWidth 32) ∧
      readsAs s 0x44 (s.dec.csum.setWidth 32) ∧ readsAs s 0x48 (s.dec.id.setWidth 32) ∧
      readsAs s 0x4C (s.dec.seq.setWidth 32) ∧ readsAs s 0x50 (s.dec.ihl.setWidth 32) ∧
      readsAs s 0x54 s.dec.plAddr ∧ readsAs s 0x58 s.dec.plLen ∧
      ∀ off, 0x5C ≤ off → off < 0x100 → off % 4 = 0 → readsAs s off 0#32) ∧
    (∀ (s : State) (v : Word), s.status.busy = false →
      writesTo s 0x00 v { popProg s with ctrl := { ie := v.getLsbD 0, truncFail := v.getLsbD 1 } } ∧
        writesTo s 0x04 v (issue v (popProg s)) ∧
        writesTo s 0x08 v { popProg s with
          status := { s.status with
            done := s.status.done && !v.getLsbD 1
            ovr := s.status.ovr && !v.getLsbD 3 } } ∧
        writesTo s 0x0C v { popProg s with ops := { s.ops with csAddr := v } } ∧
        writesTo s 0x10 v { popProg s with ops := { s.ops with csLen := v } } ∧
        writesTo s 0x1C v { popProg s with ops := { s.ops with echoId := v.setWidth 16 } } ∧
        writesTo s 0x20 v { popProg s with ops := { s.ops with echoSeq := v.setWidth 16 } } ∧
        writesTo s 0x24 v { popProg s with ops := { s.ops with plAddr := v } } ∧
        writesTo s 0x28 v { popProg s with ops := { s.ops with plLen := v } } ∧
        writesTo s 0x2C v { popProg s with ops := { s.ops with txAddr := v } } ∧
        writesTo s 0x34 v { popProg s with ops := { s.ops with rxAddr := v } } ∧
        writesTo s 0x38 v { popProg s with ops := { s.ops with rxLen := v } } ∧
        (∀ off ∈ [0x14, 0x18, 0x30, 0x3C, 0x40, 0x44, 0x48, 0x4C, 0x50, 0x54, 0x58],
          writesTo s off v (popProg s)) ∧
        ∀ off, 0x5C ≤ off → off < 0x100 → off % 4 = 0 → writesTo s off v (popProg s)) ∧
    (∀ off, off < 0x100 → off % 4 = 0 → readsAs State.reset off (if off = 0x20 then 0x00000001#32 else 0#32)) ∧
    [RegName.ctrl, .cmd, .status, .csAddr, .csLen, .csSum, .csResult, .echoId, .echoSeq, .plAddr, .plLen, .txAddr,
        .txLen, .rxAddr, .rxLen, .decType, .decCode, .decCsum, .decId, .decSeq, .decIhl, .decPlAddr,
        .decPlLen].map regOffset =
      [0x00, 0x04, 0x08, 0x0C, 0x10, 0x14, 0x18, 0x1C, 0x20, 0x24, 0x28, 0x2C, 0x30, 0x34, 0x38, 0x3C, 0x40, 0x44,
        0x48, 0x4C, 0x50, 0x54, 0x58]

/-- R27: what a read of STATUS at offset 0x08 has in each bit, that a STATUS write of `v` clears the W1C bits 1 and 3
where `v` has a 1 and leaves every RO bit, and the reset value. -/
def Obligations.StatusBits : Prop :=
  (∀ s : State, ∃ w : Word, readsAs s 0x08 w ∧
    w.getLsbD 0 = s.status.busy ∧ w.getLsbD 1 = s.status.done ∧ w.getLsbD 2 = s.status.err ∧
      w.getLsbD 3 = s.status.ovr ∧ w.extractLsb' 4 4 = s.status.errcode ∧ w.getLsbD 8 = s.status.csumZero ∧
      w.getLsbD 9 = s.status.trunc ∧ w.getLsbD 10 = s.status.decValid ∧ w.getLsbD 11 = s.status.matched ∧
      ∀ i, 12 ≤ i → w.getLsbD i = false) ∧
    (∀ (s : State) (v : Word), ∃ t, writesTo s 0x08 v t ∧ ∀ i,
      (statusWord t.status).getLsbD i =
        ((statusWord s.status).getLsbD i && !(v.getLsbD i && (i == 1 || i == 3)))) ∧
    readsAs State.reset 0x08 0#32

/-- spec/10_state.md 3: what a read of CTRL at offset 0x00 has in each bit, and that a write while BUSY = 0 stores bits
0 and 1 and nothing else. -/
def Obligations.CtrlBits : Prop :=
  (∀ s : State, ∃ w : Word, readsAs s 0x00 w ∧
    w.getLsbD 0 = s.ctrl.ie ∧ w.getLsbD 1 = s.ctrl.truncFail ∧ ∀ i, 2 ≤ i → w.getLsbD i = false) ∧
    (∀ (s : State) (v : Word), s.status.busy = false → ∃ t, writesTo s 0x00 v t ∧
      t.ctrl.ie = v.getLsbD 0 ∧ t.ctrl.truncFail = v.getLsbD 1 ∧ t = { popProg s with ctrl := t.ctrl }) ∧
    readsAs State.reset 0x00 0#32
end

