-- ==== Sys2Proof/Laws/Operands.lean ====
section
/-! SUPPORT. The byte helpers, the range tests and the flag computations as arithmetic. -/

namespace Sys2Proof.Machine

theorem be16_toNat (a b : Byte) : (be16 a b).toNat = a.toNat * 256 + b.toNat := by
  unfold be16
  rw [BitVec.toNat_append, ← Nat.shiftLeft_add_eq_or_of_lt b.isLt, Nat.shiftLeft_eq]

theorem hi8_toNat (v : Half) : (hi8 v).toNat = v.toNat / 256 := by
  unfold hi8
  rw [BitVec.extractLsb'_toNat, Nat.shiftRight_eq_div_pow]
  have := v.isLt
  omega

theorem lo8_toNat (v : Half) : (lo8 v).toNat = v.toNat % 256 := by
  unfold lo8
  rw [BitVec.extractLsb'_toNat]; simp

theorem swap16_toNat (v : Half) : (swap16 v).toNat = v.toNat % 256 * 256 + v.toNat / 256 := by
  unfold swap16
  rw [be16_toNat, hi8_toNat, lo8_toNat]

/-- A 16-bit value taken apart and put together again. -/
theorem be16_hi8_lo8 (v : Half) : be16 (hi8 v) (lo8 v) = v := by
  rw [← BitVec.toNat_inj, be16_toNat, hi8_toNat, lo8_toNat]; omega

theorem ihlWords_toNat (b : Byte) : ihlWords b = b.toNat % 16 := by
  unfold ihlWords
  rw [BitVec.extractLsb'_toNat]; simp

theorem ihlBytes_toNat (b : Byte) : ihlBytes b = b.toNat % 16 * 4 := by
  unfold ihlBytes ihlUnit
  rw [ihlWords_toNat]

theorem inRange_iff (c : Config) (a n : Nat) : inRange c a n = true ↔ a + n ≤ c.memSize := decide_eq_true_iff

theorem within_iff (x a n : Nat) : within x a n = true ↔ a ≤ x ∧ x < a + n := decide_eq_true_iff

theorem overlaps_iff (p e t : Nat) : overlaps p e t = true ↔ 0 < e ∧ p < t + 8 + e ∧ t < p + e := decide_eq_true_iff

theorem effLen_eq (s : State) : effLen s = min s.ops.plLen.toNat 1024 := rfl

theorem packetLen_eq (s : State) : packetLen s = 8 + min s.ops.plLen.toNat 1024 := rfl

theorem csumZeroFlag_iff (x : Nat) : csumZeroFlag x = true ↔ x = 0xFFFF := decide_eq_true_iff

theorem truncFlag_iff (n : Nat) : truncFlag n = true ↔ 1024 < n := decide_eq_true_iff

theorem matchFlag_iff (type : Byte) (id echoId : Half) :
    matchFlag type id echoId = true ↔ type = 0#8 ∧ id = echoId := by
  unfold matchFlag typeEchoReply
  simp

/-- Every error has a code from 1 to 6. -/
theorem errorCode_range (e : CmdError) : errorCode e ≠ 0#4 ∧ (errorCode e).toNat ≤ 6 := by cases e <;> decide

end Sys2Proof.Machine
end

