-- ==== Sys2Proof/Laws/Checksum.lean ====
section
/-! SUPPORT. The sum of words over appended buffers, one pass of Fold, and the length of a packet. -/

namespace Sys2Proof.Machine

@[simp] theorem wordSum_nil : wordSum [] = 0 := rfl

@[simp] theorem wordSum_cons (w : Half) (ws : List Half) : wordSum (w :: ws) = w.toNat + wordSum ws := by
  simp [wordSum]

theorem wordSum_append (a b : List Half) : wordSum (a ++ b) = wordSum a + wordSum b := by simp [wordSum]

/-- Words are paired from the first byte, so an even-length front does not disturb the rest (R100). -/
theorem wordsOf_append (a b : List Byte) (h : a.length % 2 = 0) : wordsOf (a ++ b) = wordsOf a ++ wordsOf b := by
  induction a using wordsOf.induct with
  | case1 => simp [wordsOf]
  | case2 b => simp at h
  | case3 c0 c1 bs ih =>
    simp only [List.cons_append, wordsOf]
    rw [ih (by simp at h; omega)]

/-- A pass that starts above 0xFFFF makes the value strictly smaller (R101). -/
theorem foldPass_lt (x : Nat) (h : 0xFFFF < x) : foldPass x < x := by
  unfold foldPass; omega

/-- A pass keeps the value modulo 0xFFFF. -/
theorem foldPass_mod (x : Nat) : foldPass x % 0xFFFF = x % 0xFFFF := by
  unfold foldPass; omega

/-- More passes than needed change nothing. -/
theorem foldLoop_fuel (n m x : Nat) (hn : x ≤ n) (hm : x ≤ m) : foldLoop n x = foldLoop m x := by
  induction n generalizing m x with
  | zero =>
    obtain rfl : x = 0 := by omega
    cases m <;> simp [foldLoop]
  | succ n ih =>
    cases m with
    | zero =>
      obtain rfl : x = 0 := by omega
      simp [foldLoop]
    | succ m =>
      rw [foldLoop, foldLoop]
      split
      · have := foldPass_lt x ‹_›
        exact ih m _ (by omega) (by omega)
      · rfl

theorem echoHeader_length (c id sq : Half) : (echoHeader c id sq).length = 8 := rfl

theorem echoPacket_length (id sq : Half) (pl : List Byte) : (echoPacket id sq pl).length = 8 + pl.length := by
  rw [echoPacket, List.length_append, echoHeader_length]

end Sys2Proof.Machine
end

