-- ==== Sys2Proof/Laws/State.lean ====
section
/-! SUPPORT. What each update of the state does to each field, one lemma per field and update, true by rfl. -/

namespace Sys2Proof.Machine

/-! ### memWrite -/

@[simp] theorem memWrite_cfg (a : Nat) (bs : List Byte) (s : State) : (memWrite a bs s).cfg = s.cfg := rfl
@[simp] theorem memWrite_ctrl (a : Nat) (bs : List Byte) (s : State) : (memWrite a bs s).ctrl = s.ctrl := rfl
@[simp] theorem memWrite_status (a : Nat) (bs : List Byte) (s : State) : (memWrite a bs s).status = s.status := rfl
@[simp] theorem memWrite_ops (a : Nat) (bs : List Byte) (s : State) : (memWrite a bs s).ops = s.ops := rfl
@[simp] theorem memWrite_res (a : Nat) (bs : List Byte) (s : State) : (memWrite a bs s).res = s.res := rfl
@[simp] theorem memWrite_dec (a : Nat) (bs : List Byte) (s : State) : (memWrite a bs s).dec = s.dec := rfl
@[simp] theorem memWrite_pend (a : Nat) (bs : List Byte) (s : State) : (memWrite a bs s).pend = s.pend := rfl
@[simp] theorem memWrite_mem (a : Nat) (bs : List Byte) (s : State) : (memWrite a bs s).mem =
    Memory.writeBytes s.mem a bs := rfl
@[simp] theorem memWrite_env (a : Nat) (bs : List Byte) (s : State) : (memWrite a bs s).env = s.env := rfl

/-! ### issue -/

@[simp] theorem issue_cfg (w : Word) (s : State) : (issue w s).cfg = s.cfg := rfl
@[simp] theorem issue_ctrl (w : Word) (s : State) : (issue w s).ctrl = s.ctrl := rfl
@[simp] theorem issue_status (w : Word) (s : State) : (issue w s).status =
    { s.status with busy := true, done := false, err := false, errcode := 0#4 } := rfl
@[simp] theorem issue_ops (w : Word) (s : State) : (issue w s).ops = s.ops := rfl
@[simp] theorem issue_res (w : Word) (s : State) : (issue w s).res = s.res := rfl
@[simp] theorem issue_dec (w : Word) (s : State) : (issue w s).dec = s.dec := rfl
@[simp] theorem issue_pend (w : Word) (s : State) : (issue w s).pend = w := rfl
@[simp] theorem issue_mem (w : Word) (s : State) : (issue w s).mem = s.mem := rfl
@[simp] theorem issue_env (w : Word) (s : State) : (issue w s).env = s.env := rfl

/-! ### complete -/

@[simp] theorem complete_cfg (s : State) : (complete s).cfg = s.cfg := rfl
@[simp] theorem complete_ctrl (s : State) : (complete s).ctrl = s.ctrl := rfl
@[simp] theorem complete_status (s : State) : (complete s).status =
    { s.status with busy := false, done := true, err := false, errcode := 0#4 } := rfl
@[simp] theorem complete_ops (s : State) : (complete s).ops = s.ops := rfl
@[simp] theorem complete_res (s : State) : (complete s).res = s.res := rfl
@[simp] theorem complete_dec (s : State) : (complete s).dec = s.dec := rfl
@[simp] theorem complete_pend (s : State) : (complete s).pend = s.pend := rfl
@[simp] theorem complete_mem (s : State) : (complete s).mem = s.mem := rfl
@[simp] theorem complete_env (s : State) : (complete s).env = s.env := rfl

/-! ### raiseError -/

@[simp] theorem raiseError_cfg (e : CmdError) (s : State) : (raiseError e s).cfg = s.cfg := rfl
@[simp] theorem raiseError_ctrl (e : CmdError) (s : State) : (raiseError e s).ctrl = s.ctrl := rfl
@[simp] theorem raiseError_status (e : CmdError) (s : State) : (raiseError e s).status =
    { s.status with busy := false, done := true, err := true, errcode := errorCode e } := rfl
@[simp] theorem raiseError_ops (e : CmdError) (s : State) : (raiseError e s).ops = s.ops := rfl
@[simp] theorem raiseError_res (e : CmdError) (s : State) : (raiseError e s).res = s.res := rfl
@[simp] theorem raiseError_dec (e : CmdError) (s : State) : (raiseError e s).dec = s.dec := rfl
@[simp] theorem raiseError_pend (e : CmdError) (s : State) : (raiseError e s).pend = s.pend := rfl
@[simp] theorem raiseError_mem (e : CmdError) (s : State) : (raiseError e s).mem = s.mem := rfl
@[simp] theorem raiseError_env (e : CmdError) (s : State) : (raiseError e s).env = s.env := rfl

/-! ### statusWrite -/

@[simp] theorem statusWrite_cfg (v : Word) (s : State) : (statusWrite v s).cfg = s.cfg := rfl
@[simp] theorem statusWrite_ctrl (v : Word) (s : State) : (statusWrite v s).ctrl = s.ctrl := rfl
@[simp] theorem statusWrite_status (v : Word) (s : State) : (statusWrite v s).status =
    { s.status with
      done := s.status.done && !v.getLsbD 1
      ovr := s.status.ovr && !v.getLsbD 3 } := rfl
@[simp] theorem statusWrite_ops (v : Word) (s : State) : (statusWrite v s).ops = s.ops := rfl
@[simp] theorem statusWrite_res (v : Word) (s : State) : (statusWrite v s).res = s.res := rfl
@[simp] theorem statusWrite_dec (v : Word) (s : State) : (statusWrite v s).dec = s.dec := rfl
@[simp] theorem statusWrite_pend (v : Word) (s : State) : (statusWrite v s).pend = s.pend := rfl
@[simp] theorem statusWrite_mem (v : Word) (s : State) : (statusWrite v s).mem = s.mem := rfl
@[simp] theorem statusWrite_env (v : Word) (s : State) : (statusWrite v s).env = s.env := rfl

/-! ### setOvr -/

@[simp] theorem setOvr_cfg (s : State) : (setOvr s).cfg = s.cfg := rfl
@[simp] theorem setOvr_ctrl (s : State) : (setOvr s).ctrl = s.ctrl := rfl
@[simp] theorem setOvr_status (s : State) : (setOvr s).status = { s.status with ovr := true } := rfl
@[simp] theorem setOvr_ops (s : State) : (setOvr s).ops = s.ops := rfl
@[simp] theorem setOvr_res (s : State) : (setOvr s).res = s.res := rfl
@[simp] theorem setOvr_dec (s : State) : (setOvr s).dec = s.dec := rfl
@[simp] theorem setOvr_pend (s : State) : (setOvr s).pend = s.pend := rfl
@[simp] theorem setOvr_mem (s : State) : (setOvr s).mem = s.mem := rfl
@[simp] theorem setOvr_env (s : State) : (setOvr s).env = s.env := rfl

/-! ### latchSum -/

@[simp] theorem latchSum_cfg (x : Nat) (s : State) : (latchSum x s).cfg = s.cfg := rfl
@[simp] theorem latchSum_ctrl (x : Nat) (s : State) : (latchSum x s).ctrl = s.ctrl := rfl
@[simp] theorem latchSum_status (x : Nat) (s : State) : (latchSum x s).status =
    { s.status with csumZero := csumZeroFlag x } := rfl
@[simp] theorem latchSum_ops (x : Nat) (s : State) : (latchSum x s).ops = s.ops := rfl
@[simp] theorem latchSum_res (x : Nat) (s : State) : (latchSum x s).res =
    { s.res with csSum := BitVec.ofNat 16 x, csResult := BitVec.ofNat 16 (0xFFFF - x) } := rfl
@[simp] theorem latchSum_dec (x : Nat) (s : State) : (latchSum x s).dec = s.dec := rfl
@[simp] theorem latchSum_pend (x : Nat) (s : State) : (latchSum x s).pend = s.pend := rfl
@[simp] theorem latchSum_mem (x : Nat) (s : State) : (latchSum x s).mem = s.mem := rfl
@[simp] theorem latchSum_env (x : Nat) (s : State) : (latchSum x s).env = s.env := rfl

/-! ### latchPacket -/

@[simp] theorem latchPacket_cfg (len n : Nat) (s : State) : (latchPacket len n s).cfg = s.cfg := rfl
@[simp] theorem latchPacket_ctrl (len n : Nat) (s : State) : (latchPacket len n s).ctrl = s.ctrl := rfl
@[simp] theorem latchPacket_status (len n : Nat) (s : State) : (latchPacket len n s).status =
    { s.status with trunc := truncFlag n } := rfl
@[simp] theorem latchPacket_ops (len n : Nat) (s : State) : (latchPacket len n s).ops = s.ops := rfl
@[simp] theorem latchPacket_res (len n : Nat) (s : State) : (latchPacket len n s).res =
    { s.res with txLen := BitVec.ofNat 32 len } := rfl
@[simp] theorem latchPacket_dec (len n : Nat) (s : State) : (latchPacket len n s).dec = s.dec := rfl
@[simp] theorem latchPacket_pend (len n : Nat) (s : State) : (latchPacket len n s).pend = s.pend := rfl
@[simp] theorem latchPacket_mem (len n : Nat) (s : State) : (latchPacket len n s).mem = s.mem := rfl
@[simp] theorem latchPacket_env (len n : Nat) (s : State) : (latchPacket len n s).env = s.env := rfl

/-! ### latchDecoded -/

@[simp] theorem latchDecoded_cfg (r n ihl : Nat) (h : List Byte) (s : State) : (latchDecoded r n ihl h s).cfg =
    s.cfg := rfl
@[simp] theorem latchDecoded_ctrl (r n ihl : Nat) (h : List Byte) (s : State) : (latchDecoded r n ihl h s).ctrl =
    s.ctrl := rfl
@[simp] theorem latchDecoded_status (r n ihl : Nat) (h : List Byte) (s : State) : (latchDecoded r n ihl h s).status =
    { s.status with
      decValid := true
      matched := matchFlag (headerByte h 0) (headerHalf h 4) s.ops.echoId } := rfl
@[simp] theorem latchDecoded_ops (r n ihl : Nat) (h : List Byte) (s : State) : (latchDecoded r n ihl h s).ops =
    s.ops := rfl
@[simp] theorem latchDecoded_res (r n ihl : Nat) (h : List Byte) (s : State) : (latchDecoded r n ihl h s).res =
    s.res := rfl
@[simp] theorem latchDecoded_dec (r n ihl : Nat) (h : List Byte) (s : State) : (latchDecoded r n ihl h s).dec =
    { type := headerByte h 0, code := headerByte h 1, csum := headerHalf h 2, id := headerHalf h 4, seq := headerHalf h 6,
        ihl := BitVec.ofNat 6 ihl, plAddr := BitVec.ofNat 32 (r + ihl + icmpHdrLen),
        plLen := BitVec.ofNat 32 (n - ihl - icmpHdrLen) } := rfl
@[simp] theorem latchDecoded_pend (r n ihl : Nat) (h : List Byte) (s : State) : (latchDecoded r n ihl h s).pend =
    s.pend := rfl
@[simp] theorem latchDecoded_mem (r n ihl : Nat) (h : List Byte) (s : State) : (latchDecoded r n ihl h s).mem =
    s.mem := rfl
@[simp] theorem latchDecoded_env (r n ihl : Nat) (h : List Byte) (s : State) : (latchDecoded r n ihl h s).env =
    s.env := rfl

/-! ### clearDecoded -/

@[simp] theorem clearDecoded_cfg (s : State) : (clearDecoded s).cfg = s.cfg := rfl
@[simp] theorem clearDecoded_ctrl (s : State) : (clearDecoded s).ctrl = s.ctrl := rfl
@[simp] theorem clearDecoded_status (s : State) : (clearDecoded s).status =
    { s.status with decValid := false, matched := false } := rfl
@[simp] theorem clearDecoded_ops (s : State) : (clearDecoded s).ops = s.ops := rfl
@[simp] theorem clearDecoded_res (s : State) : (clearDecoded s).res = s.res := rfl
@[simp] theorem clearDecoded_dec (s : State) : (clearDecoded s).dec = s.dec := rfl
@[simp] theorem clearDecoded_pend (s : State) : (clearDecoded s).pend = s.pend := rfl
@[simp] theorem clearDecoded_mem (s : State) : (clearDecoded s).mem = s.mem := rfl
@[simp] theorem clearDecoded_env (s : State) : (clearDecoded s).env = s.env := rfl

/-! ### recordRead -/

@[simp] theorem recordRead_cfg (v : Word) (s : State) : (recordRead v s).cfg = s.cfg := rfl
@[simp] theorem recordRead_ctrl (v : Word) (s : State) : (recordRead v s).ctrl = s.ctrl := rfl
@[simp] theorem recordRead_status (v : Word) (s : State) : (recordRead v s).status = s.status := rfl
@[simp] theorem recordRead_ops (v : Word) (s : State) : (recordRead v s).ops = s.ops := rfl
@[simp] theorem recordRead_res (v : Word) (s : State) : (recordRead v s).res = s.res := rfl
@[simp] theorem recordRead_dec (v : Word) (s : State) : (recordRead v s).dec = s.dec := rfl
@[simp] theorem recordRead_pend (v : Word) (s : State) : (recordRead v s).pend = s.pend := rfl
@[simp] theorem recordRead_mem (v : Word) (s : State) : (recordRead v s).mem = s.mem := rfl
@[simp] theorem recordRead_env (v : Word) (s : State) : (recordRead v s).env =
    { s.env with reads := v :: s.env.reads } := rfl

/-! ### popProg -/

@[simp] theorem popProg_cfg (s : State) : (popProg s).cfg = s.cfg := rfl
@[simp] theorem popProg_ctrl (s : State) : (popProg s).ctrl = s.ctrl := rfl
@[simp] theorem popProg_status (s : State) : (popProg s).status = s.status := rfl
@[simp] theorem popProg_ops (s : State) : (popProg s).ops = s.ops := rfl
@[simp] theorem popProg_res (s : State) : (popProg s).res = s.res := rfl
@[simp] theorem popProg_dec (s : State) : (popProg s).dec = s.dec := rfl
@[simp] theorem popProg_pend (s : State) : (popProg s).pend = s.pend := rfl
@[simp] theorem popProg_mem (s : State) : (popProg s).mem = s.mem := rfl
@[simp] theorem popProg_env (s : State) : (popProg s).env = { s.env with prog := s.env.prog.tail } := rfl

/-! ### countDraw -/

@[simp] theorem countDraw_cfg (s : State) : (countDraw s).cfg = s.cfg := rfl
@[simp] theorem countDraw_ctrl (s : State) : (countDraw s).ctrl = s.ctrl := rfl
@[simp] theorem countDraw_status (s : State) : (countDraw s).status = s.status := rfl
@[simp] theorem countDraw_ops (s : State) : (countDraw s).ops = s.ops := rfl
@[simp] theorem countDraw_res (s : State) : (countDraw s).res = s.res := rfl
@[simp] theorem countDraw_dec (s : State) : (countDraw s).dec = s.dec := rfl
@[simp] theorem countDraw_pend (s : State) : (countDraw s).pend = s.pend := rfl
@[simp] theorem countDraw_mem (s : State) : (countDraw s).mem = s.mem := rfl
@[simp] theorem countDraw_env (s : State) : (countDraw s).env = { s.env with draws := s.env.draws + 1 } := rfl

/-! ### scheduleEngine -/

@[simp] theorem scheduleEngine_cfg (s : State) : (scheduleEngine s).cfg = s.cfg := rfl
@[simp] theorem scheduleEngine_ctrl (s : State) : (scheduleEngine s).ctrl = s.ctrl := rfl
@[simp] theorem scheduleEngine_status (s : State) : (scheduleEngine s).status = s.status := rfl
@[simp] theorem scheduleEngine_ops (s : State) : (scheduleEngine s).ops = s.ops := rfl
@[simp] theorem scheduleEngine_res (s : State) : (scheduleEngine s).res = s.res := rfl
@[simp] theorem scheduleEngine_dec (s : State) : (scheduleEngine s).dec = s.dec := rfl
@[simp] theorem scheduleEngine_pend (s : State) : (scheduleEngine s).pend = s.pend := rfl
@[simp] theorem scheduleEngine_mem (s : State) : (scheduleEngine s).mem = s.mem := rfl
@[simp] theorem scheduleEngine_env (s : State) : (scheduleEngine s).env =
    { s.env with sched := .engine :: s.env.sched } := rfl

/-! ### applyReset -/

@[simp] theorem applyReset_cfg (s : State) : (applyReset s).cfg = s.cfg := rfl
@[simp] theorem applyReset_ctrl (s : State) : (applyReset s).ctrl = State.reset.ctrl := rfl
@[simp] theorem applyReset_status (s : State) : (applyReset s).status = State.reset.status := rfl
@[simp] theorem applyReset_ops (s : State) : (applyReset s).ops = State.reset.ops := rfl
@[simp] theorem applyReset_res (s : State) : (applyReset s).res = State.reset.res := rfl
@[simp] theorem applyReset_dec (s : State) : (applyReset s).dec = State.reset.dec := rfl
@[simp] theorem applyReset_pend (s : State) : (applyReset s).pend = State.reset.pend := rfl
@[simp] theorem applyReset_mem (s : State) : (applyReset s).mem = State.reset.mem := rfl
@[simp] theorem applyReset_env (s : State) : (applyReset s).env = s.env := rfl

/-! ### takeTurn -/

@[simp] theorem takeTurn_cfg (s : State) : (takeTurn s).cfg = s.cfg := by unfold takeTurn; split <;> rfl
@[simp] theorem takeTurn_ctrl (s : State) : (takeTurn s).ctrl = s.ctrl := by unfold takeTurn; split <;> rfl
@[simp] theorem takeTurn_status (s : State) : (takeTurn s).status = s.status := by unfold takeTurn; split <;> rfl
@[simp] theorem takeTurn_ops (s : State) : (takeTurn s).ops = s.ops := by unfold takeTurn; split <;> rfl
@[simp] theorem takeTurn_res (s : State) : (takeTurn s).res = s.res := by unfold takeTurn; split <;> rfl
@[simp] theorem takeTurn_dec (s : State) : (takeTurn s).dec = s.dec := by unfold takeTurn; split <;> rfl
@[simp] theorem takeTurn_pend (s : State) : (takeTurn s).pend = s.pend := by unfold takeTurn; split <;> rfl
@[simp] theorem takeTurn_mem (s : State) : (takeTurn s).mem = s.mem := by unfold takeTurn; split <;> rfl
@[simp] theorem takeTurn_prog (s : State) : (takeTurn s).env.prog = s.env.prog := by unfold takeTurn; split <;> rfl
@[simp] theorem takeTurn_reads (s : State) : (takeTurn s).env.reads = s.env.reads := by unfold takeTurn; split <;> rfl
@[simp] theorem takeTurn_sched (s : State) : (takeTurn s).env.sched = s.env.sched.tail := by
  unfold takeTurn contended
  split
  · cases h : s.env.sched <;> simp_all
  · rfl

end Sys2Proof.Machine
end

