-- ==== Sys2Proof/Laws/Exec.lean ====
section
/-! SUPPORT. What ENGINE's memory primitives and the three commands can answer, one inversion lemma each. -/

namespace Sys2Proof.Machine

/-- MemRead answers bytes exactly where all of them are written. -/
theorem memRead_ok (cmd : Instr) (a n : Nat) (s : State) (bs : List Byte) :
    memRead cmd a n s = .ok bs ↔ bs.length = n ∧ ∀ i, i < n → Memory.read s.mem (a + i) = bs[i]? := by
  rw [← Memory.readBytes_ok]
  unfold memRead
  split <;> simp_all

/-- MemRead stops with UNINIT_READ exactly at the lowest unwritten address of its range. -/
theorem memRead_error (cmd : Instr) (a n : Nat) (s : State) (f : Fault) :
    memRead cmd a n s = .error f ↔
      ∃ x, f = .uninitRead cmd x ∧ (a ≤ x ∧ x < a + n) ∧ Memory.read s.mem x = none ∧
        ∀ y, a ≤ y → y < x → Memory.read s.mem y ≠ none := by
  simp only [← Memory.readBytes_error]
  unfold memRead
  split <;> rename_i h <;> simp [h, eq_comm]

/-- CSUM raises its error, or sums the bytes it reads and completes. -/
theorem execCsum_next (s t : State) (h : execCsum s = .next t) :
    (∃ e, csumError s = some e ∧ t = raiseError e s) ∨
      (csumError s = none ∧ ∃ bs, memRead .csum s.ops.csAddr.toNat s.ops.csLen.toNat s = .ok bs ∧
        t = complete (latchSum (inetSum bs) s)) := by
  unfold execCsum at h
  split at h
  · rename_i e he
    cases h; exact .inl ⟨e, he, rfl⟩
  · rename_i he
    split at h
    · cases h
    · rename_i bs hbs
      cases h; exact .inr ⟨he, bs, hbs, rfl⟩

/-- BUILD_ECHO raises its first error, or writes the packet, latches its results and completes. -/
theorem execBuildEcho_next (s t : State) (h : execBuildEcho s = .next t) :
    (∃ e, buildError s = some e ∧ t = raiseError e s) ∨
      (buildError s = none ∧ ∃ pl, memRead .buildEcho s.ops.plAddr.toNat (effLen s) s = .ok pl ∧
        t = complete (latchPacket (packetLen s) s.ops.plLen.toNat
          (latchSum (packetSum s.ops.echoId s.ops.echoSeq pl)
            (memWrite s.ops.txAddr.toNat (echoPacket s.ops.echoId s.ops.echoSeq pl) s)))) := by
  unfold execBuildEcho at h
  split at h
  · rename_i e he
    cases h; exact .inl ⟨e, he, rfl⟩
  · rename_i he
    split at h
    · cases h
    · rename_i pl hpl
      cases h; exact .inr ⟨he, pl, hpl, rfl⟩

/-- DECODE clears its flags and raises its first error, or latches the fields it reads and completes. -/
theorem execDecode_next (s t : State) (h : execDecode s = .next t) :
    (∃ e, decodeError s = some e ∧ t = decodeFail e s) ∨
      (decodeError s = none ∧ ∃ first hd, memRead .decode s.ops.rxAddr.toNat 1 s = .ok first ∧
        memRead .decode (s.ops.rxAddr.toNat + ihlBytes (headerByte first 0)) icmpHdrLen s = .ok hd ∧
        t = complete (latchDecoded s.ops.rxAddr.toNat s.ops.rxLen.toNat (ihlBytes (headerByte first 0)) hd s)) := by
  unfold execDecode at h
  split at h
  · rename_i e he
    cases h; exact .inl ⟨e, he, rfl⟩
  · rename_i he
    split at h
    · cases h
    · rename_i first hf
      split at h
      · cases h
      · rename_i hd hh
        cases h; exact .inr ⟨he, first, hd, hf, hh, rfl⟩

/-- A command never refuses. -/
theorem exec_ne_refused (i : Instr) (s : State) (r : Refusal) : exec i s ≠ .refused r := by
  intro h
  cases i
  · simp only [exec, execCsum] at h; repeat (first | cases h | split at h)
  · simp only [exec, execBuildEcho] at h; repeat (first | cases h | split at h)
  · simp only [exec, execDecode] at h; repeat (first | cases h | split at h)

/-- A command faults only after its checks have passed, and only with an UNINIT_READ of its own. -/
theorem exec_fault (i : Instr) (s : State) (f : Fault) (h : exec i s = .fault f) :
    commandError i s = none ∧ ∃ a n, memRead i a n s = .error f := by
  cases i
  · simp only [exec, execCsum] at h
    split at h
    · cases h
    · rename_i he
      split at h
      · rename_i g hg
        cases h; exact ⟨he, _, _, hg⟩
      · cases h
  · simp only [exec, execBuildEcho] at h
    split at h
    · cases h
    · rename_i he
      split at h
      · rename_i g hg
        cases h; exact ⟨he, _, _, hg⟩
      · cases h
  · simp only [exec, execDecode] at h
    split at h
    · cases h
    · rename_i he
      split at h
      · rename_i g hg
        cases h; exact ⟨he, _, _, hg⟩
      · split at h
        · rename_i g hg
          cases h; exact ⟨he, _, _, hg⟩
        · cases h

/-! ### Where no error is raised -/

theorem csumError_none (s : State) :
    csumError s = none ↔ s.ops.csAddr.toNat + s.ops.csLen.toNat ≤ s.cfg.memSize := by
  unfold csumError inRange
  by_cases h : s.ops.csAddr.toNat + s.ops.csLen.toNat ≤ s.cfg.memSize <;> simp [h]

theorem buildError_none (s : State) :
    buildError s = none ↔
      ¬(s.ctrl.truncFail = true ∧ maxPayload < s.ops.plLen.toNat) ∧
        s.ops.plAddr.toNat + effLen s ≤ s.cfg.memSize ∧ s.ops.txAddr.toNat + packetLen s ≤ s.cfg.memSize ∧
        overlaps s.ops.plAddr.toNat (effLen s) s.ops.txAddr.toNat = false := by
  unfold buildError inRange
  by_cases h1 : s.ctrl.truncFail && decide (maxPayload < s.ops.plLen.toNat)
  · rw [if_pos h1]
    rw [Bool.and_eq_true, decide_eq_true_iff] at h1
    simp [h1]
  · rw [if_neg h1]
    rw [Bool.and_eq_true, decide_eq_true_iff] at h1
    by_cases h2 : s.ops.plAddr.toNat + effLen s ≤ s.cfg.memSize <;>
      by_cases h3 : s.ops.txAddr.toNat + packetLen s ≤ s.cfg.memSize <;>
      by_cases h4 : overlaps s.ops.plAddr.toNat (effLen s) s.ops.txAddr.toNat = true <;>
      simp [h1, h2, h3, h4]

theorem headerError_none (b0 : Byte) (n : Nat) :
    headerError b0 n = none ↔ ihlMinWords ≤ ihlWords b0 ∧ ihlBytes b0 + icmpHdrLen ≤ n := by
  unfold headerError
  split_ifs with h1 h2
  · simp; omega
  · simp; omega
  · simp; omega

theorem datagramError_none (s : State) :
    datagramError s = none ↔
      s.ops.rxAddr.toNat + s.ops.rxLen.toNat ≤ s.cfg.memSize ∧ s.ops.rxLen.toNat ≠ 0 := by
  unfold datagramError inRange
  by_cases h1 : s.ops.rxAddr.toNat + s.ops.rxLen.toNat ≤ s.cfg.memSize
  · by_cases h2 : s.ops.rxLen.toNat = 0
    · rw [decide_eq_true h1, if_neg (by simp), if_pos h2]; simp [h2]
    · rw [decide_eq_true h1, if_neg (by simp), if_neg h2]; simp [h1, h2]
  · rw [decide_eq_false h1, if_pos (by simp)]; simp [h1]

/-- DECODE raises no error exactly where the datagram is in range and nonempty and its first byte, if written, has a
header length that fits. -/
theorem decodeError_none (s : State) :
    decodeError s = none ↔
      datagramError s = none ∧ ∀ b0, Memory.read s.mem s.ops.rxAddr.toNat = some b0 →
        headerError b0 s.ops.rxLen.toNat = none := by
  unfold decodeError
  cases hd : datagramError s with
  | some e => simp
  | none => cases hm : Memory.read s.mem s.ops.rxAddr.toNat <;> simp

end Sys2Proof.Machine
end

