-- ==== Sys2Proof/Laws/Step.lean ====
section
/-! SUPPORT. What one step can do: the moves of the two agents, said once. -/

namespace Sys2Proof.Machine

/-- ENGINE's move, when it answers a next state: nothing while BUSY = 0, else the completion of an illegal word or
the answer of the command in PEND. -/
theorem engineMove_next (s t : State) (h : engineMove s = .next t) :
    (s.status.busy = false ∧ t = s) ∨
      (s.status.busy = true ∧ (∃ r, fetch s = .error r) ∧ t = performIllegal s) ∨
      (s.status.busy = true ∧ ∃ i, fetch s = .ok i ∧ exec i s = .next t) := by
  unfold engineMove at h
  split at h
  · rename_i hb
    split at h
    · rename_i i hi
      exact .inr (.inr ⟨hb, i, hi, h⟩)
    · rename_i r hr
      cases h; exact .inr (.inl ⟨hb, ⟨r, hr⟩, rfl⟩)
  · rename_i hb
    cases h; exact .inl ⟨by simpa using hb, rfl⟩

/-- HOST's move, when it answers a next state: nothing without an action, else its action. -/
theorem hostTurn_next (s t : State) (h : hostTurn s = .next t) :
    (s.env.prog = [] ∧ t = s) ∨ ∃ act rest, s.env.prog = act :: rest ∧ hostMove act s = .next t := by
  unfold hostTurn at h
  split at h
  · rename_i act rest hp
    exact .inr ⟨act, rest, hp, h⟩
  · rename_i hp
    cases h; exact .inl ⟨hp, rfl⟩

/-- A write access, when it answers a next state: a MEM byte that is no hazard, or a write below 0x1000. -/
theorem busWrite_next (addr bits : Nat) (v : Word) (s t : State) (h : busWrite addr bits v s = .next t) :
    (∃ x, busTarget s.cfg addr bits = .byte x ∧ hazardous x (v.setWidth 8) s = false ∧
        t = memWrite x [v.setWidth 8] s) ∨
      ∃ off, busTarget s.cfg addr bits = .window off ∧ t = windowWrite off v s := by
  unfold busWrite at h
  split at h
  · cases h
  · rename_i x hx
    unfold memWindowWrite at h
    split at h
    · cases h
    · rename_i hz
      cases h; exact .inl ⟨x, hx, by simpa using hz, rfl⟩
  · rename_i off ho
    cases h; exact .inr ⟨off, ho, rfl⟩

/-- A read access, when it answers a next state, changes the host side alone. -/
theorem busRead_next (addr bits : Nat) (s t : State) (h : busRead addr bits s = .next t) :
    ∃ e : HostSide, e.prog = s.env.prog ∧ e.sched = s.env.sched ∧ t = { s with env := e } := by
  unfold busRead at h
  split at h
  · cases h
  · cases h
    unfold memWindowRead
    split
    · exact ⟨(countDraw (recordRead _ s)).env, rfl, rfl, rfl⟩
    · split
      · exact ⟨(countDraw (recordRead _ s)).env, rfl, rfl, rfl⟩
      · exact ⟨(recordRead _ s).env, rfl, rfl, rfl⟩
  · cases h
    exact ⟨(recordRead _ s).env, rfl, rfl, rfl⟩

/-- A MEM byte that a host access reaches lies in MEM. -/
theorem busTarget_byte (c : Config) (addr bits x : Nat) (h : busTarget c addr bits = .byte x) : x < c.memSize := by
  unfold busTarget at h
  split at h
  · cases h
  · split at h
    · cases h
    · split at h
      · split at h
        · injection h with h; omega
        · cases h
      · split at h <;> cases h

/-- A write below 0x1000: a STATUS write, a dropped write that sets OVR, a register write, or nothing. -/
theorem windowWrite_cases (off : Nat) (v : Word) (s : State) :
    (regAt off = some .status ∧ windowWrite off v s = statusWrite v s) ∨
      (regAt off ≠ some .status ∧ s.status.busy = true ∧ windowWrite off v s = setOvr s) ∨
      (∃ r, regAt off = some r ∧ r ≠ .status ∧ s.status.busy = false ∧ windowWrite off v s = regWrite r v s) ∨
      (regAt off = none ∧ s.status.busy = false ∧ windowWrite off v s = s) := by
  unfold windowWrite
  cases hr : regAt off with
  | none => cases hb : s.status.busy <;> simp
  | some r => cases hb : s.status.busy <;> cases r <;> simp

/-- HOST's action, when it answers a next state. -/
theorem hostMove_next (act : HostAct) (s t : State) (h : hostMove act s = .next t) :
    (∃ e : HostSide, t = { s with env := e }) ∨
      (∃ x b, x < s.cfg.memSize ∧ hazardous x b (popProg s) = false ∧ t = memWrite x [b] (popProg s)) ∨
      (∃ off v, t = windowWrite off v (popProg s)) ∨ t = applyReset (popProg s) := by
  cases act with
  | read addr bits =>
    obtain ⟨e, _, _, rfl⟩ := busRead_next addr bits _ _ h
    exact .inl ⟨e, rfl⟩
  | write addr bits v =>
    rcases busWrite_next addr bits v _ _ h with ⟨x, hx, hz, rfl⟩ | ⟨off, _, rfl⟩
    · exact .inr (.inl ⟨x, _, busTarget_byte _ _ _ _ hx, hz, rfl⟩)
    · exact .inr (.inr (.inl ⟨off, v, rfl⟩))
  | poll =>
    cases h
    unfold pollStep
    split
    · exact .inl ⟨(recordRead _ s).env, rfl⟩
    · exact .inl ⟨(popProg (recordRead _ s)).env, rfl⟩
  | waitIrq =>
    cases h
    split
    · exact .inl ⟨(popProg s).env, rfl⟩
    · exact .inl ⟨s.env, rfl⟩
  | rst => cases h; exact .inr (.inr (.inr rfl))

/-- One step, when it answers a next state: an agent's move after its turn has been used up. -/
theorem step_next (s t : State) (h : step s = .next t) :
    (nextAgent s = .engine ∧ engineMove (takeTurn s) = .next t) ∨
      (nextAgent s = .host ∧ hostTurn (takeTurn s) = .next t) := by
  unfold step at h
  split at h
  · exact .inl ⟨‹_›, h⟩
  · exact .inr ⟨‹_›, h⟩

end Sys2Proof.Machine
end

