-- ==== Sys2Proof/Laws/HostPort.lean ====
section
/-! SUPPORT. The register map and the windows: where a register stands, and what an access by host offset does. -/

namespace Sys2Proof.Machine

/-- Every register stands at an aligned offset of the register window, and is found there. -/
theorem regAt_regOffset (r : RegName) :
    regOffset r < 0x100 ∧ regOffset r % 4 = 0 ∧ regAt (regOffset r) = some r := by
  cases r <;> decide

theorem regAt_some (off : Nat) (r : RegName) (h : regAt off = some r) : off = regOffset r :=
  (beq_iff_eq.1 (List.find?_some (p := fun r => regOffset r == off) h)).symm

theorem regAt_status (off : Nat) : regAt off = some .status ↔ off = 0x08 := by
  constructor
  · exact regAt_some off .status
  · rintro rfl; decide

theorem regAt_reserved (off : Nat) (h : 0x5C ≤ off) : regAt off = none := by
  cases h' : regAt off with
  | none => rfl
  | some r =>
    have := regAt_some off r h'
    subst this
    cases r <;> simp [regOffset] at h

/-- What an access reaches, by host offset (R61, R63). -/
theorem busTarget_hostAddr (c : Config) (off bits : Nat) :
    busTarget c (hostAddr c off) bits =
      if 0x1000 + c.memSize ≤ off then .undefinedAccess (.notDecoded (hostAddr c off))
      else if 0x1000 ≤ off then
        if bits = 8 then .byte (off - 0x1000) else .undefinedAccess (.badMemAccess off bits)
      else if bits = 32 ∧ off % 4 = 0 then .window off else .undefinedAccess (.badRegisterAccess off bits) := by
  unfold busTarget
  have e : hostAddr c off - c.iceBase = off := by unfold hostAddr; omega
  rw [if_neg (by unfold hostAddr; omega), e]

theorem busTarget_window (c : Config) (off : Nat) (h : off < 0x1000) (h4 : off % 4 = 0) :
    busTarget c (hostAddr c off) 32 = .window off := by
  rw [busTarget_hostAddr, if_neg (by omega), if_neg (by omega), if_pos ⟨rfl, h4⟩]

theorem busTarget_mem (c : Config) (a : Nat) (h : a < c.memSize) : busTarget c (hostAddr c (0x1000 + a)) 8 = .byte a := by
  rw [busTarget_hostAddr, if_neg (by omega), if_pos (by omega), if_pos rfl]; simp

theorem hostMove_write_window (s : State) (off : Nat) (v : Word) (h : off < 0x1000) (h4 : off % 4 = 0) :
    hostMove (.write (hostAddr s.cfg off) 32 v) s = .next (windowWrite off v (popProg s)) := by
  simp only [hostMove, busWrite, popProg_cfg, busTarget_window s.cfg off h h4]

theorem hostMove_read_window (s : State) (off : Nat) (h : off < 0x1000) (h4 : off % 4 = 0) :
    hostMove (.read (hostAddr s.cfg off) 32) s = .next (recordRead (windowRead off (popProg s)) (popProg s)) := by
  simp only [hostMove, busRead, popProg_cfg, busTarget_window s.cfg off h h4]

theorem hostMove_writeReg (s : State) (r : RegName) (v : Word) :
    hostMove (writeReg s.cfg r v) s = .next (windowWrite (regOffset r) v (popProg s)) :=
  hostMove_write_window s _ v (by have := (regAt_regOffset r).1; omega) (regAt_regOffset r).2.1

theorem hostMove_storeByte (s : State) (a : Nat) (b : Byte) (h : a < s.cfg.memSize) :
    hostMove (storeByte s.cfg a b) s = memWindowWrite a b (popProg s) := by
  simp only [storeByte, hostMove, busWrite, popProg_cfg, memWindowBase, busTarget_mem s.cfg a h]
  simp

theorem hostMove_loadByte (s : State) (a : Nat) (h : a < s.cfg.memSize) :
    hostMove (.read (hostAddr s.cfg (0x1000 + a)) 8) s = .next (memWindowRead a (popProg s)) := by
  simp only [hostMove, busRead, popProg_cfg, busTarget_mem s.cfg a h]

/-- Register reads do not look at HOST's program. -/
theorem windowRead_popProg (off : Nat) (s : State) : windowRead off (popProg s) = windowRead off s := by
  unfold windowRead
  split
  · rename_i r _
    cases r <;> rfl
  · rfl

end Sys2Proof.Machine
end

