-- ==== Sys2Proof/Laws/PerInstr.lean ====
section
/-! SUPPORT. Per-command facts about the syntax, one lemma per constructor. -/

namespace Sys2Proof.Laws.EncodedWord

/-- The command word of a well-formed command has RSVD zero, OP from 1 to 3, and is a legal word (R80, R82). -/
def Statement (i : Sys2Proof.Instr) : Prop :=
  i.wf → Sys2Proof.rsvdField (Sys2Proof.encode i) = 0#28 ∧ Sys2Proof.opField (Sys2Proof.encode i) = Sys2Proof.opcode i ∧
    1 ≤ (Sys2Proof.opcode i).toNat ∧ (Sys2Proof.opcode i).toNat ≤ 3 ∧ Sys2Proof.legalWord (Sys2Proof.encode i)

theorem csum : Statement .csum := by unfold Statement; decide

theorem buildEcho : Statement .buildEcho := by unfold Statement; decide

theorem decode : Statement .decode := by unfold Statement; decide

end Sys2Proof.Laws.EncodedWord
end

