-- ==== Sys2Proof/Tests/Slice0.lean ====
section
/-! SUPPORT. The model's own tests: the well-formedness checks refuse, words decode, each command on small states from
spec/95_test_vectors.md, a few HOST actions, and for every statement a state that meets its hypotheses. -/

namespace Sys2Proof.Tests

open Sys2Proof Sys2Proof.Machine

/-! ### Helpers -/

/-- The next state of an outcome, if it is one. -/
def nextOf : Host.Outcome State Fault Refusal → Option State
  | .next s => some s
  | .fault _ => none
  | .refused _ => none

/-- The fault of an outcome, if it is one. -/
def faultOf : Host.Outcome State Fault Refusal → Option Fault
  | .next _ => none
  | .fault f => some f
  | .refused _ => none

/-- The refusal of an outcome, if it is one. -/
def refusalOf : Host.Outcome State Fault Refusal → Option Refusal
  | .next _ => none
  | .fault _ => none
  | .refused r => some r

/-- Reset with the bytes `bs` written from `a` on. -/
def withBytes (a : Nat) (bs : List Byte) (s : State) : State := memWrite a bs s

/-- Reset with CSUM's operands. -/
def csumState (a n : Word) : State := { State.reset with ops := { State.reset.ops with csAddr := a, csLen := n } }

/-- Reset with BUILD_ECHO's operands, ECHO_ID = 0x1234. -/
def buildState (p n tx : Word) : State :=
  { State.reset with ops := { State.reset.ops with echoId := 0x1234#16, plAddr := p, plLen := n, txAddr := tx } }

/-- Reset with DECODE's operands, ECHO_ID = 0x1234. -/
def decodeState (r n : Word) : State :=
  { State.reset with ops := { State.reset.ops with echoId := 0x1234#16, rxAddr := r, rxLen := n } }

/-- The state `s` with BUSY = 1 and the word `w` pending. -/
def pendingState (w : Word) (s : State) : State := issue w s

/-- The state `s` with HOST's program and the schedule set. -/
def scripted (prog : List HostAct) (sched : List Agent) (s : State) : State :=
  { s with env := { s.env with prog := prog, sched := sched } }

/-- A successful CSUM over nothing has IHL bytes 45 and the header of vector D-18 in memory. -/
def datagram : State :=
  withBytes 0x600 [0x45#8]
    (withBytes 0x614 [0x00#8, 0x00#8, 0x9F#8, 0x7E#8, 0x12#8, 0x34#8, 0x00#8, 0x01#8] (decodeState 0x600#32 50#32))

/-! ### The checks refuse ill-formed terms -/

theorem test_config_wf_refuses : ¬({ memSize := 15 } : Config).wf ∧ ¬({ memSize := 131073 } : Config).wf := by decide

theorem test_config_wf_accepts : ({ memSize := 16 } : Config).wf ∧ ({} : Config).wf ∧ ({ memSize := 131072 } : Config).wf := by
  decide

theorem test_instr_wf : Instr.csum.wf ∧ Instr.buildEcho.wf ∧ Instr.decode.wf := by decide

theorem test_legalWord_refuses :
    ¬legalWord 0x00000000#32 ∧ ¬legalWord 0x00000004#32 ∧ ¬legalWord 0x00000011#32 ∧ ¬legalWord 0x80000001#32 := by decide

-- H-10: 16-bit read at 0x008; 32-bit read at 0x1000; 8-bit write at 0x1000 + 4096; 32-bit read at 0x002
theorem test_accessWf_refuses :
    ¬accessWf {} 0x008 16 ∧ ¬accessWf {} 0x1000 32 ∧ ¬accessWf {} (0x1000 + 4096) 8 ∧ ¬accessWf {} 0x002 32 := by decide

theorem test_hostStmt_wf_refuses :
    ¬(HostStmt.sb 4096 0#8).wf {} ∧ ¬(HostStmt.lb 4096).wf {} ∧ ¬(HostStmt.sbx 4095 [0#8, 0#8]).wf {} ∧
      ¬(HostStmt.sbs 4095 ['a', 'b']).wf {} ∧ ¬(HostStmt.cmd 0x4#32).wf {} := by
  refine ⟨by decide, by decide, by decide, ?_, by decide⟩
  exact fun h => absurd h.1 (by decide)

-- text that is not ASCII
theorem test_hostStmt_wf_refuses_text : ¬(HostStmt.sbs 0 ['é']).wf {} := fun h =>
  absurd (h.2 'é' (List.mem_singleton.mpr rfl)) (by decide)

/-! ### Decoding: the words of spec/30_encoding.md R82, their bits written out -/

theorem test_decode_csum :
    decode 0b00000000000000000000000000000001#32 = .ok .csum ∧ decodeTableWord 32 0x00000001 = some .csum := by decide

theorem test_decode_buildEcho :
    decode 0b00000000000000000000000000000010#32 = .ok .buildEcho ∧ decodeTableWord 32 0x00000002 = some .buildEcho := by
  decide

theorem test_decode_decode :
    decode 0b00000000000000000000000000000011#32 = .ok .decode ∧ decodeTableWord 32 0x00000003 = some .decode := by decide

-- From reset, the first step after a placed word runs it: CSUM over nothing (C-01), an empty request (B-05 with
-- ECHO_ID = 0), an empty datagram (D-10).
theorem test_first_step_csum :
    (nextOf (step (State.reset.withFetchWord 32 1))).map (fun t => (t.res.csResult, statusWord t.status)) =
      some (0xFFFF#16, 0x002#32) := by decide

theorem test_first_step_buildEcho :
    (nextOf (step (State.reset.withFetchWord 32 2))).map (fun t => (t.res.txLen, statusWord t.status)) =
      some (8#32, 0x002#32) := by decide

theorem test_first_step_decode :
    (nextOf (step (State.reset.withFetchWord 32 3))).map (fun t => statusWord t.status) = some 0x066#32 := by decide

/-! ### The commands (spec/95_test_vectors.md 2) -/

-- C-21: odd address and odd length
theorem test_csum_odd :
    (nextOf (exec .csum (withBytes 0x101 [0x12#8, 0x34#8, 0x56#8] (csumState 0x101#32 3#32)))).map
      (fun t => (t.res.csSum, t.res.csResult)) = some (0x6834#16, 0x97CB#16) := by decide

-- C-27: the range sum does not wrap
theorem test_csum_no_wrap :
    (nextOf (exec .csum (csumState 0xFFFFFFFF#32 2#32))).map (fun t => statusWord t.status) = some 0x026#32 := by decide

-- B-04: the packet of "A"; the pad byte is not written
theorem test_buildEcho_odd :
    (nextOf (exec .buildEcho (withBytes 0 [0x41#8] (buildState 0#32 1#32 0x100#32)))).map
      (fun t => ((Memory.readBytes t.mem 0x100 9).toOption, Memory.read t.mem 0x109)) =
      some (some [0x08#8, 0x00#8, 0xA4#8, 0xCA#8, 0x12#8, 0x34#8, 0x00#8, 0x01#8, 0x41#8], none) := by decide

-- B-15: the in-place payload is refused
theorem test_buildEcho_overlap :
    (nextOf (exec .buildEcho (buildState 0x108#32 22#32 0x100#32))).map (fun t => statusWord t.status) =
      some 0x046#32 := by decide

-- D-18: only nine bytes are written, and the reply matches
theorem test_decode_match :
    (nextOf (exec .decode datagram)).map (fun t => (t.dec.csum, t.dec.plAddr, t.dec.plLen, statusWord t.status)) =
      some (0x9F7E#16, 0x61C#32, 22#32, 0xC02#32) := by decide

-- D-20: BAD_IHL comes before SHORT_DGRAM
theorem test_decode_bad_ihl :
    (nextOf (exec .decode (withBytes 0x600 [0x44#8] (decodeState 0x600#32 10#32)))).map (fun t => statusWord t.status) =
      some 0x056#32 := by decide

/-! ### HOST actions (spec/95_test_vectors.md 2.5) -/

-- H-02: WR ECHO_ID, 0x12345678 stores the low 16 bits
theorem test_host_echo_id :
    (nextOf (hostMove (writeReg {} .echoId 0x12345678#32) State.reset)).map (regRead .echoId) = some 0x00005678#32 := by
  decide

-- H-03: WR CTRL, 0xFFFFFFFF reads back 3
theorem test_host_ctrl :
    (nextOf (hostMove (writeReg {} .ctrl 0xFFFFFFFF#32) State.reset)).map (regRead .ctrl) = some 0x00000003#32 := by decide

-- H-08: while BUSY = 1 a write to CS_LEN is dropped and sets OVR
theorem test_host_busy :
    (nextOf (hostMove (writeReg {} .csLen 9#32) (pendingState 1#32 State.reset))).map
      (fun t => (t.ops.csLen, statusWord t.status)) = some (0#32, 0x009#32) := by decide

-- H-12: SB 0x005 into the pending CSUM's [0x000, 0x010) is HAZARD, SB 0x010 is harmless
theorem test_host_hazard :
    faultOf (hostMove (storeByte {} 0x005 0#8) (pendingState 1#32 (csumState 0#32 0x10#32))) = some (.hazard 0x005) ∧
      (nextOf (hostMove (storeByte {} 0x010 0#8) (pendingState 1#32 (csumState 0#32 0x10#32)))).map
        (fun t => Memory.read t.mem 0x010) = some (some 0#8) := by decide

-- H-10: the four accesses are refused
theorem test_host_refused :
    (refusalOf (hostMove (.read 0x008 16) State.reset)).isSome ∧ (refusalOf (hostMove (.read 0x1000 32) State.reset)).isSome ∧
      (refusalOf (hostMove (.write (0x1000 + 4096) 8 0#32) State.reset)).isSome ∧
      (refusalOf (hostMove (.read 0x002 32) State.reset)).isSome := by decide

-- HAZARD also where the written byte decides whether DECODE errs: 44 is BAD_IHL, 45 is not (assumption log 7)
theorem test_host_hazard_ihl :
    faultOf (hostMove (storeByte {} 0x600 0x45#8)
      (pendingState 3#32 (withBytes 0x600 [0x44#8] (decodeState 0x600#32 50#32)))) = some (.hazard 0x600) := by decide

/-! ### Witnesses: for each statement with hypotheses, states that meet them -/

/-- An illegal and a legal word pending on ENGINE's turn. -/
theorem witness_IllegalWordCompletes :
    (pendingState 0x11#32 State.reset).status.busy = true ∧ nextAgent (pendingState 0x11#32 State.reset) = .engine ∧
      ¬legalWord (pendingState 0x11#32 State.reset).pend ∧ nextAgent (pendingState 1#32 State.reset) = .engine ∧
      legalWord (pendingState 1#32 State.reset).pend ∧ (nextOf (step (pendingState 1#32 State.reset))).isSome := by decide

theorem witness_WordsPairBytes :
    [1#8, 2#8, 3#8][2 * 0]? = some 1#8 ∧ [1#8, 2#8, 3#8][2 * 0 + 1]? = some 2#8 ∧
      [1#8, 2#8, 3#8].length = 2 * 1 + 1 ∧ [1#8, 2#8, 3#8][2 * 1]? = some 3#8 := by decide

theorem witness_FoldEndAroundCarry : 0xFFFF ≤ 0xFFFF ∧ 0xFFFF < 0x10000 := by decide

theorem witness_FoldClosedForm : 0 < 1 ∧ (wordsOf [1#8, 2#8, 3#8, 4#8]).Perm (wordsOf [3#8, 4#8, 1#8, 2#8]) := by decide

theorem witness_AccumulatorIsExact : ({ memSize := 16 } : Config).wf ∧ [1#8, 2#8].length ≤ ({ memSize := 16 } : Config).memSize := by
  decide

theorem witness_OddLengthLaw : [1#8].length % 2 = 1 := by decide

/-- The same bytes at two addresses, both in range. -/
theorem witness_SymmetryLaw :
    (nextOf (exec .csum (withBytes 0 [0x12#8, 0x34#8] (csumState 0#32 2#32)))).map (·.status.err) = some false ∧
      (nextOf (exec .csum (withBytes 0x101 [0x12#8, 0x34#8] (csumState 0x101#32 2#32)))).map (·.status.err) = some false ∧
      holdsAt (withBytes 0 [0x12#8, 0x34#8] (csumState 0#32 2#32)).mem 0 [0x12#8, 0x34#8] ∧
      holdsAt (withBytes 0x101 [0x12#8, 0x34#8] (csumState 0x101#32 2#32)).mem 0x101 [0x12#8, 0x34#8] ∧
      (csumState 0#32 2#32).ops.csLen.toNat = [0x12#8, 0x34#8].length := by decide

/-- An even front, and a memory that holds the filled buffer 08 00 F7 FF, up to the last byte of MEM. -/
theorem witness_VerificationLaw :
    [0x08#8, 0x00#8].length % 2 = 0 ∧
      (let c := BitVec.ofNat 16 (inetChecksum ([0x08#8, 0x00#8] ++ [0#8, 0#8] ++ []))
       let filled := [0x08#8, 0x00#8] ++ [hi8 c, lo8 c] ++ []
       let s := withBytes 4092 [0x08#8, 0x00#8, 0xF7#8, 0xFF#8] (csumState 4092#32 4#32)
       s.ops.csAddr.toNat + s.ops.csLen.toNat ≤ s.cfg.memSize ∧ s.ops.csLen.toNat = filled.length ∧
         holdsAt s.mem s.ops.csAddr.toNat filled) := by decide

/-- Past MEM_SIZE by one (C-23); the empty range at MEM_SIZE (C-22); the last byte written (C-25). -/
theorem witness_CsumCommand :
    (csumState 4097#32 0#32).cfg.memSize < (csumState 4097#32 0#32).ops.csAddr.toNat + (csumState 4097#32 0#32).ops.csLen.toNat ∧
      (csumState 4096#32 0#32).ops.csAddr.toNat + (csumState 4096#32 0#32).ops.csLen.toNat ≤ (csumState 4096#32 0#32).cfg.memSize ∧
      holdsAt (withBytes 4095 [0xAB#8] (csumState 4095#32 1#32)).mem 4095 [0xAB#8] := by decide

/-- C-28: the second byte of two is unwritten. -/
theorem witness_CsumCommand_unwritten :
    firstUnwritten (withBytes 0 [0x12#8] (csumState 0#32 2#32)).mem 0 2 1 :=
  ⟨by decide, by decide, fun y _ hy => by obtain rfl : y = 0 := by omega
                                          decide⟩

/-- B-14: the packet ends at the last byte of MEM; B-04: an odd payload held in memory. -/
theorem witness_BuildEchoBuilds :
    (let s := buildState 0#32 0#32 4088#32
     ¬(s.ctrl.truncFail = true ∧ 1024 < s.ops.plLen.toNat) ∧
       s.ops.txAddr.toNat + (8 + min s.ops.plLen.toNat 1024) ≤ s.cfg.memSize) ∧
      (let s := withBytes 0 [0x41#8] (buildState 0#32 1#32 0x100#32)
       let e := min s.ops.plLen.toNat 1024
       let p := s.ops.plAddr.toNat
       let tx := s.ops.txAddr.toNat
       ¬(s.ctrl.truncFail = true ∧ 1024 < s.ops.plLen.toNat) ∧ p + e ≤ s.cfg.memSize ∧ tx + (8 + e) ≤ s.cfg.memSize ∧
         ¬(0 < e ∧ p < tx + 8 + e ∧ tx < p + e) ∧ [0x41#8].length = e ∧ holdsAt s.mem p [0x41#8]) := by decide

/-- B-10, B-12, B-13 and B-15: each test the first to fail. -/
theorem witness_BuildEchoErrorsInOrder :
    (let s := { buildState 0#32 1025#32 0x800#32 with ctrl := { truncFail := true } }
     s.ctrl.truncFail = true ∧ 1024 < s.ops.plLen.toNat) ∧
      (let s := buildState 4090#32 10#32 0x100#32
       ¬(s.ctrl.truncFail = true ∧ 1024 < s.ops.plLen.toNat) ∧
         s.cfg.memSize < s.ops.plAddr.toNat + min s.ops.plLen.toNat 1024) ∧
      (let s := buildState 0#32 0#32 4090#32
       s.ops.plAddr.toNat + min s.ops.plLen.toNat 1024 ≤ s.cfg.memSize ∧
         s.cfg.memSize < s.ops.txAddr.toNat + (8 + min s.ops.plLen.toNat 1024)) ∧
      (let s := buildState 0x108#32 22#32 0x100#32
       let e := min s.ops.plLen.toNat 1024
       s.ops.txAddr.toNat + (8 + e) ≤ s.cfg.memSize ∧ s.ops.plAddr.toNat + e ≤ s.cfg.memSize ∧ 0 < e ∧
         s.ops.plAddr.toNat < s.ops.txAddr.toNat + 8 + e ∧ s.ops.txAddr.toNat < s.ops.plAddr.toNat + e) := by decide

/-- B-22: nothing is written at the payload source. -/
theorem witness_BuildEchoStopsOnUnwritten :
    (let s := buildState 0#32 22#32 0x100#32
     let e := min s.ops.plLen.toNat 1024
     ¬(s.ctrl.truncFail = true ∧ 1024 < s.ops.plLen.toNat) ∧ s.ops.plAddr.toNat + e ≤ s.cfg.memSize ∧
       s.ops.txAddr.toNat + (8 + e) ≤ s.cfg.memSize ∧
       ¬(0 < e ∧ s.ops.plAddr.toNat < s.ops.txAddr.toNat + 8 + e ∧ s.ops.txAddr.toNat < s.ops.plAddr.toNat + e)) ∧
      firstUnwritten (buildState 0#32 22#32 0x100#32).mem 0 22 0 :=
  ⟨by decide, by decide, by decide, fun y _ hy => by omega⟩

/-- Two empty requests whose identifiers differ (B-05 and B-07). -/
theorem witness_IdentifierLaw :
    State.reset.ops.echoId ≠ (buildState 0#32 0#32 0x100#32).ops.echoId ∧
      (nextOf (exec .buildEcho State.reset)).map (·.status.err) = some false ∧
      (nextOf (exec .buildEcho (buildState 0#32 0#32 0x100#32))).map (·.status.err) = some false := by decide

/-- The empty request of B-07, read back by CSUM in place. -/
theorem witness_BuiltPacketVerifies :
    (nextOf (exec .buildEcho (buildState 0#32 0#32 0x100#32))).map
      (fun t =>
        let u := { t with ops := { t.ops with csAddr := 0x100#32, csLen := t.res.txLen } }
        decide (t.status.err = false ∧ u.ops.csLen = t.res.txLen ∧
          u.ops.csAddr.toNat + u.ops.csLen.toNat ≤ u.cfg.memSize ∧
          ∀ i, i < t.res.txLen.toNat → Memory.read u.mem (u.ops.csAddr.toNat + i) = Memory.read t.mem (0x100 + i))) =
      some true := by decide

/-- D-14: IHL 20 and RX_LEN = ihl + 8. -/
theorem witness_DecodeDecodes :
    (let s := { datagram with ops := { datagram.ops with rxLen := 28#32 } }
     let ihl := (0x45#8).toNat % 16 * 4
     s.cfg.wf ∧ s.ops.rxAddr.toNat + s.ops.rxLen.toNat ≤ s.cfg.memSize ∧
       Memory.read s.mem s.ops.rxAddr.toNat = some 0x45#8 ∧ 5 ≤ (0x45#8).toNat % 16 ∧ ihl + 8 ≤ s.ops.rxLen.toNat ∧
       holdsAt s.mem (s.ops.rxAddr.toNat + ihl) [0x00#8, 0x00#8, 0x9F#8, 0x7E#8, 0x12#8, 0x34#8, 0x00#8, 0x01#8]) := by
  decide

/-- D-12, D-11, D-20 and D-13: each test the first to fail. -/
theorem witness_DecodeErrorsInOrder :
    (let s := decodeState 4097#32 0#32
     s.cfg.memSize < s.ops.rxAddr.toNat + s.ops.rxLen.toNat) ∧
      (let s := decodeState 4096#32 0#32
       s.ops.rxAddr.toNat + s.ops.rxLen.toNat ≤ s.cfg.memSize ∧ s.ops.rxLen.toNat = 0) ∧
      (let s := withBytes 0x600 [0x44#8] (decodeState 0x600#32 10#32)
       s.ops.rxAddr.toNat + s.ops.rxLen.toNat ≤ s.cfg.memSize ∧ s.ops.rxLen.toNat ≠ 0 ∧
         Memory.read s.mem s.ops.rxAddr.toNat = some 0x44#8 ∧ (0x44#8).toNat % 16 < 5) ∧
      (let s := { datagram with ops := { datagram.ops with rxLen := 27#32 } }
       Memory.read s.mem s.ops.rxAddr.toNat = some 0x45#8 ∧ 5 ≤ (0x45#8).toNat % 16 ∧
         s.ops.rxLen.toNat < (0x45#8).toNat % 16 * 4 + 8) := by decide

/-- D-19: no first byte; and a first byte without a header. -/
theorem witness_DecodeStopsOnUnwritten :
    ((decodeState 0x600#32 50#32).ops.rxAddr.toNat + (decodeState 0x600#32 50#32).ops.rxLen.toNat ≤
        (decodeState 0x600#32 50#32).cfg.memSize ∧
      Memory.read (decodeState 0x600#32 50#32).mem 0x600 = none ∧
      Memory.read (withBytes 0x600 [0x45#8] (decodeState 0x600#32 50#32)).mem 0x600 = some 0x45#8) ∧
      firstUnwritten (withBytes 0x600 [0x45#8] (decodeState 0x600#32 50#32)).mem (0x600 + (0x45#8).toNat % 16 * 4) 8 0x614 :=
  ⟨by decide, by decide, by decide, fun y h1 h2 => by
    have : 0x600 + (0x45#8).toNat % 16 * 4 = 0x614 := by decide
    omega⟩

/-- A second memory that differs in a payload byte. -/
theorem witness_DecodeReadsNineBytes :
    (let m := Memory.write datagram.mem 0x61C 0x48#8
     Memory.read m datagram.ops.rxAddr.toNat = Memory.read datagram.mem datagram.ops.rxAddr.toNat ∧
       (∀ i, i < 8 → Memory.read m (0x600 + (0x45#8).toNat % 16 * 4 + i) =
         Memory.read datagram.mem (0x600 + (0x45#8).toNat % 16 * 4 + i))) ∧
      (nextOf (exec .decode datagram)).isSome ∧ (faultOf (exec .decode (decodeState 0x600#32 50#32))).isSome ∧
      fetch (pendingState 3#32 datagram) = .ok .decode ∧ commandError .decode (pendingState 3#32 datagram) = none := by
  decide

/-- An empty request built at 0x614 stands behind an IP header whose first byte is 45 at 0x600. -/
theorem witness_RoundTrip :
    (nextOf (exec .buildEcho (withBytes 0x600 [0x45#8] (buildState 0#32 0#32 0x614#32)))).map
      (fun t =>
        let u := { t with ops := { t.ops with rxAddr := 0x600#32, rxLen := 28#32 } }
        decide (t.status.err = false ∧ u.cfg.wf ∧ Memory.read u.mem u.ops.rxAddr.toNat = some 0x45#8 ∧
          (0x45#8).toNat % 16 = 5 ∧ u.ops.rxLen.toNat = 4 * 5 + t.res.txLen.toNat ∧
          u.ops.rxAddr.toNat + u.ops.rxLen.toNat ≤ u.cfg.memSize ∧
          ∀ i, i < t.res.txLen.toNat →
            Memory.read u.mem (u.ops.rxAddr.toNat + 4 * 5 + i) = Memory.read t.mem (0x614 + i))) = some true := by decide

/-- The same with the payload "A" (41): packet and payload clauses both have a byte to speak of. -/
theorem witness_RoundTrip_payload :
    (nextOf (exec .buildEcho (withBytes 0 [0x41#8] (withBytes 0x600 [0x45#8] (buildState 0#32 1#32 0x614#32))))).map
      (fun t =>
        let u := { t with ops := { t.ops with rxAddr := 0x600#32, rxLen := 29#32 } }
        decide (t.status.err = false ∧ u.cfg.wf ∧ Memory.read u.mem u.ops.rxAddr.toNat = some 0x45#8 ∧
          u.ops.rxLen.toNat = 4 * 5 + t.res.txLen.toNat ∧ t.ops.plLen.toNat = 1 ∧
          u.ops.rxAddr.toNat + u.ops.rxLen.toNat ≤ u.cfg.memSize ∧ Memory.read t.mem 0 = some 0x41#8 ∧
          ∀ i, i < t.res.txLen.toNat →
            Memory.read u.mem (u.ops.rxAddr.toNat + 4 * 5 + i) = Memory.read t.mem (0x614 + i))) = some true := by decide

/-- Each command completes from reset, and each can raise an error and can fault: the premises of CompletionActions,
ErrorsArePrecise, ResultFlags, CommandFrames and UninitOnlyAfterTests. -/
theorem witness_exec_outcomes :
    ((nextOf (exec .csum State.reset)).map (·.status.err) = some false ∧
      (nextOf (exec .buildEcho State.reset)).map (·.status.err) = some false ∧
      (nextOf (exec .decode datagram)).map (·.status.err) = some false) ∧
      ((nextOf (exec .csum (csumState 4097#32 0#32))).map (·.status.err) = some true ∧
        (nextOf (exec .buildEcho (buildState 0x108#32 22#32 0x100#32))).map (·.status.err) = some true ∧
        (nextOf (exec .decode State.reset)).map (·.status.err) = some true) ∧
      (faultOf (exec .csum (csumState 0#32 1#32))).isSome ∧ (faultOf (exec .buildEcho (buildState 0#32 1#32 0x100#32))).isSome ∧
      (faultOf (exec .decode (decodeState 0x600#32 50#32))).isSome := by decide

/-- With IE set, an error and no error. -/
theorem witness_CompletionActions :
    (let s := { State.reset with ctrl := { ie := true } }
     s.ctrl.ie = true ∧ commandError .csum s = none ∧ commandError .decode s = some .shortDgram) := by decide

theorem witness_WritesStayInMem :
    (nextOf (exec .buildEcho State.reset)).map (fun t => decide (Memory.read t.mem 0 ≠ Memory.read State.reset.mem 0)) =
      some true := by decide

/-- A pending CSUM on ENGINE's turn, and ENGINE's turn while idle. -/
theorem witness_StepRunsPendingCommand :
    (nextAgent (pendingState 1#32 State.reset) = .engine ∧ (pendingState 1#32 State.reset).status.busy = true ∧
      fetch (pendingState 1#32 State.reset) = .ok .csum) ∧
      nextAgent (scripted [] [.engine] State.reset) = .engine ∧ (scripted [] [.engine] State.reset).status.busy = false := by
  decide

/-- HOST's turn with an action and without one. -/
theorem witness_StepRunsHostAction :
    nextAgent (scripted [.poll] [] State.reset) = .host ∧ (scripted [.poll] [] State.reset).env.prog = [.poll] ∧
      nextAgent State.reset = .host ∧ State.reset.env.prog = [] := by decide

theorem witness_ScheduleNamesTheMover :
    (scripted [] [.engine] State.reset).env.sched = [.engine] ∧ State.reset.env.sched = [] ∧
      State.reset.status.busy = false ∧ (pendingState 1#32 State.reset).env.sched = [] ∧
      (pendingState 1#32 State.reset).status.busy = true ∧ (pendingState 1#32 State.reset).env.prog = [] := by decide

/-- Reset, and a pending request: both meet the invariant and have a next step. -/
theorem witness_StepKeepsInvariant :
    (State.reset.Inv ∧ (pendingState 2#32 State.reset).Inv) ∧
      (nextOf (step State.reset)).isSome ∧ (nextOf (step (pendingState 2#32 State.reset))).isSome :=
  ⟨⟨by decide, by decide⟩, by decide, by decide⟩

theorem witness_ResetInput :
    faultOf (stepTimes 1 (pendingState 1#32 (csumState 0#32 1#32))) = some (.uninitRead .csum 0) := by decide

/-- A command stays pending over a dropped write, and its footprint is not empty. -/
theorem witness_PendingCommandIsCaptured :
    (let s := scripted [writeReg {} .csLen 9#32] [.host] (pendingState 1#32 (csumState 0#32 4#32))
     s.status.busy = true ∧ (nextOf (step s)).map (·.status.busy) = some true ∧ inReadFootprint s 3 = true) ∧
      (let s := scripted [.poll] [.host] (pendingState 2#32 (buildState 0#32 0#32 0x100#32))
       (nextOf (step s)).map (·.status.busy) = some true ∧ inWriteFootprint s 0x107 = true) := by decide

/-- OVR set and cleared by a STATUS write with bit 3, cleared by reset, and set by a dropped CMD write. -/
theorem witness_OvrIsSticky :
    (let s := scripted [.write (hostAddr {} 0x08) 32 0x8#32] [.host] (setOvr State.reset)
     s.status.ovr = true ∧ nextAgent s = .host ∧ (nextOf (step s)).map (·.status.ovr) = some false) ∧
      (let s := scripted [.rst] [.host] (setOvr State.reset)
       (nextOf (step s)).map (·.status.ovr) = some false) ∧
      (let s := scripted [.write (hostAddr {} 0x04) 32 1#32] [.host] (pendingState 1#32 State.reset)
       s.status.ovr = false ∧ s.status.busy = true ∧ nextAgent s = .host ∧
         (nextOf (step s)).map (·.status.ovr) = some true) := by decide

theorem witness_CmdIssue :
    State.reset.status.busy = false ∧ (pendingState 1#32 State.reset).status.busy = true ∧ ¬legalWord 0x00000011#32 := by
  decide

/-- The ends of the range below 0x1000, and STATUS in it. -/
theorem witness_BusyWritesDropped :
    (pendingState 1#32 State.reset).status.busy = true ∧ 0x00 < 0x1000 ∧ 0x00 % 4 = 0 ∧ 0x00 ≠ 0x08 ∧ 0xFFC < 0x1000 ∧
      0xFFC % 4 = 0 ∧ 0xFFC ≠ 0x08 ∧ 0x08 < 0x1000 ∧ 0x08 % 4 = 0 := by decide

theorem witness_RegisterAccess :
    (0xFE < 0x100 ∧ ¬(32 = 32 ∧ 0xFE % 4 = 0)) ∧ (0x00 < 0x100 ∧ ¬(8 = 32 ∧ 0x00 % 4 = 0)) ∧
      State.reset.status.busy = false ∧ isRo .txLen = true ∧ isRw .ctrl = true ∧ isRw .echoId = true ∧
      isRw .rxLen = true ∧ (pendingState 1#32 State.reset).status.busy = true ∧ RegName.cmd ≠ .status ∧
      RegName.status ≠ .cmd := by decide

theorem witness_ReservedOffsets :
    0x5C ≤ 0x5C ∧ 0x5C < 0x1000 ∧ 0x5C % 4 = 0 ∧ 0x5C ≤ 0xFFC ∧ 0xFFC < 0x1000 ∧ 0xFFC % 4 = 0 ∧
      State.reset.status.busy = false ∧ (pendingState 1#32 State.reset).status.busy = true := by decide

/-- The last byte of MEM, written and unwritten. -/
theorem witness_MemWindow :
    State.reset.status.busy = false ∧ 4095 < State.reset.cfg.memSize ∧
      Memory.read (withBytes 4095 [0xAB#8] State.reset).mem 4095 = some 0xAB#8 ∧ 32 ≠ 8 := by decide

theorem witness_UnwrittenHostReadDraws :
    4095 < State.reset.cfg.memSize ∧ Memory.read State.reset.mem 4095 = none := by decide

/-- H-12, the last byte of the footprint and the first past it; and B-01's packet as a write footprint. -/
theorem witness_MemoryWriteHazard :
    (let s := pendingState 1#32 (csumState 0#32 0x10#32)
     s.status.busy = true ∧ 0x10 < s.cfg.memSize ∧ inReadFootprint s 0xF = true ∧ inReadFootprint s 0x10 = false ∧
       inWriteFootprint s 0x10 = false ∧ inReadFootprint (memWrite 0x10 [0#8] s) 0x10 = false ∧
       inWriteFootprint (memWrite 0x10 [0#8] s) 0x10 = false) ∧
      inWriteFootprint (pendingState 2#32 (buildState 0#32 22#32 0x100#32)) 0x11D = true := by decide

/-- H-13: the write footprint of a pending BUILD_ECHO, and a written byte outside it. -/
theorem witness_MemoryReadHazard :
    (let s := pendingState 2#32 (withBytes 0 [0x48#8] (buildState 0#32 1#32 0x100#32))
     s.status.busy = true ∧ 0x100 < s.cfg.memSize ∧ inWriteFootprint s 0x100 = true ∧ inWriteFootprint s 0 = false ∧
       Memory.read s.mem 0 = some 0x48#8) := by decide

/-- An illegal word, a command that errs and one of each that does not. -/
theorem witness_Footprints :
    ¬legalWord (pendingState 0#32 State.reset).pend ∧
      (fetch (pendingState 1#32 (csumState 4097#32 0#32)) = .ok .csum ∧
        commandError .csum (pendingState 1#32 (csumState 4097#32 0#32)) ≠ none) ∧
      commandError .csum (pendingState 1#32 State.reset) = none ∧
      (fetch (pendingState 2#32 State.reset) = .ok .buildEcho ∧ commandError .buildEcho (pendingState 2#32 State.reset) = none) ∧
      fetch (pendingState 3#32 datagram) = .ok .decode ∧ commandError .decode (pendingState 3#32 datagram) = none := by
  decide

theorem witness_IrqFollowsDone :
    State.reset.status.busy = false ∧ (0x2#32).getLsbD 0 = false ∧
      (nextOf (hostMove (writeReg State.reset.cfg .ctrl 0x2#32) State.reset)).isSome ∧
      (nextOf (hostMove (writeReg State.reset.cfg .status 0x2#32) State.reset)).isSome ∧
      (nextOf (hostMove (writeReg State.reset.cfg .cmd 0x2#32) State.reset)).isSome := by decide

/-- A POLL repeated twice before ENGINE's step. -/
theorem witness_PollEnds :
    (let s := scripted [.poll] (List.replicate 2 .host ++ [.engine, .host]) (pendingState 1#32 State.reset)
     s.status.busy = true ∧ s.env.prog = [.poll] ∧ s.env.sched = List.replicate 2 .host ++ [.engine, .host] ∧
       (nextOf (stepTimes 3 s)).isSome) := by decide

theorem witness_CanonicalMemoryUnique : Memory.wf (Memory.write (Memory.write [] 3 1#8) 2 0#8) := by decide

/-- Not busy, with the ends of the reserved range and of the window. -/
theorem witness_RegisterMap :
    State.reset.status.busy = false ∧ (0x5C ≤ 0x5C ∧ 0x5C < 0x100 ∧ 0x5C % 4 = 0) ∧
      (0x5C ≤ 0xFC ∧ 0xFC < 0x100 ∧ 0xFC % 4 = 0) ∧ 0x14 ∈ [0x14, 0x18, 0x30] ∧ (0x00 < 0x100 ∧ 0x00 % 4 = 0) := by decide

/-- The first and the last reserved bit of STATUS and of CTRL. -/
theorem witness_StatusBits : 12 ≤ 12 ∧ 12 ≤ 31 := by decide

theorem witness_CtrlBits : State.reset.status.busy = false ∧ 2 ≤ 2 ∧ 2 ≤ 31 := by decide

end Sys2Proof.Tests
end

/-! SUPPORT. The access by host offset and the register map, said once: what an access below 0x1000 answers, what a
register reads as after a write, and the STATUS word bit by bit (spec/10_state.md R22 to R37). -/

namespace Sys2Proof.Machine

/-! ### Windows by offset -/

theorem windowRead_regOffset (r : RegName) (s : State) : windowRead (regOffset r) s = regRead r s := by
  simp only [windowRead, (regAt_regOffset r).2.2]

theorem windowRead_reserved (off : Nat) (s : State) (h : 0x5C ≤ off) : windowRead off s = 0#32 := by
  simp only [windowRead, regAt_reserved off h]

/-- A write to a register lands unless BUSY = 1 drops it; STATUS alone is never dropped (R37, R195). -/
theorem windowWrite_regOffset (r : RegName) (v : Word) (s : State) :
    windowWrite (regOffset r) v s = if s.status.busy = true ∧ r ≠ .status then setOvr s else regWrite r v s := by
  unfold windowWrite
  rw [(regAt_regOffset r).2.2]
  cases r with
  | status => simp [regWrite]
  | _ => cases s.status.busy <;> rfl

theorem windowWrite_regOffset_idle (r : RegName) (v : Word) (s : State) (hb : s.status.busy = false) :
    windowWrite (regOffset r) v s = regWrite r v s := by
  rw [windowWrite_regOffset, if_neg (by simp [hb])]

theorem windowWrite_busy (off : Nat) (v : Word) (s : State) (hb : s.status.busy = true) (ho : off ≠ 0x08) :
    windowWrite off v s = setOvr s := by
  rcases windowWrite_cases off v s with ⟨hr, _⟩ | ⟨_, _, h⟩ | ⟨_, _, _, hi, _⟩ | ⟨_, hi, _⟩
  · exact absurd ((regAt_status off).1 hr) ho
  · exact h
  · simp [hb] at hi
  · simp [hb] at hi

theorem windowWrite_reserved_idle (off : Nat) (v : Word) (s : State) (hb : s.status.busy = false) (h : 0x5C ≤ off) :
    windowWrite off v s = s := by
  simp [windowWrite, regAt_reserved off h, hb]

/-- OVR after a write below 0x1000 (R31): cleared by bit 3 at STATUS, set by a dropped write elsewhere. -/
theorem windowWrite_ovr (off : Nat) (v : Word) (s : State) :
    (windowWrite off v s).status.ovr =
      if off = 0x08 then s.status.ovr && !v.getLsbD 3 else s.status.ovr || s.status.busy := by
  rcases windowWrite_cases off v s with ⟨hr, h⟩ | ⟨hr, hb, h⟩ | ⟨r, hr, hne, hb, h⟩ | ⟨hr, hb, h⟩
  · rw [h, if_pos ((regAt_status off).1 hr), statusWrite_status]
  · rw [h, if_neg (mt (regAt_status off).2 hr)]; simp [hb]
  · have ho : off ≠ 0x08 := fun ho => hne (by simpa [(regAt_status off).2 ho] using hr.symm)
    rw [h, if_neg ho, hb, Bool.or_false]
    cases r with
    | status => exact absurd rfl hne
    | _ => rfl
  · rw [h, if_neg (fun ho => by simp [(regAt_status off).2 ho] at hr), hb, Bool.or_false]

/-! ### Accesses by offset -/

theorem readsAs_window (s : State) (off : Nat) (h : off < 0x1000) (h4 : off % 4 = 0) :
    readsAs s off (windowRead off s) := by
  rw [← windowRead_popProg]
  exact hostMove_read_window s off h h4

theorem readsAs_reg (s : State) (r : RegName) : readsAs s (regOffset r) (regRead r s) := by
  obtain ⟨hlt, h4, _⟩ := regAt_regOffset r
  rw [← windowRead_regOffset]
  exact readsAs_window s _ (by omega) h4

theorem readsAs_reserved (s : State) (off : Nat) (h : 0x5C ≤ off) (hlt : off < 0x1000) (h4 : off % 4 = 0) :
    readsAs s off 0#32 := by
  rw [← windowRead_reserved off s h]
  exact readsAs_window s off hlt h4

theorem hostMove_writeReg_idle (s : State) (r : RegName) (v : Word) (hb : s.status.busy = false) :
    hostMove (writeReg s.cfg r v) s = .next (regWrite r v (popProg s)) := by
  rw [hostMove_writeReg, windowWrite_regOffset_idle r v (popProg s) hb]

theorem hostMove_writeReg_busy (s : State) (r : RegName) (v : Word) (hb : s.status.busy = true) (hr : r ≠ .status) :
    hostMove (writeReg s.cfg r v) s = .next (setOvr (popProg s)) := by
  rw [hostMove_writeReg, windowWrite_regOffset, if_pos ⟨hb, hr⟩]

theorem hostMove_writeReg_status (s : State) (v : Word) :
    hostMove (writeReg s.cfg .status v) s = .next (statusWrite v (popProg s)) := by
  rw [hostMove_writeReg, windowWrite_regOffset, if_neg (by simp), regWrite]

theorem writesTo_reserved_idle (s : State) (off : Nat) (v : Word) (hb : s.status.busy = false) (h : 0x5C ≤ off)
    (hlt : off < 0x1000) (h4 : off % 4 = 0) : writesTo s off v (popProg s) := by
  have := hostMove_write_window s off v hlt h4
  rwa [windowWrite_reserved_idle off v (popProg s) hb h] at this

/-- Below 0x1000 every access but an aligned 32-bit one is refused (R23a, R63a). -/
theorem busTarget_badRegisterAccess (c : Config) (off bits : Nat) (h : off < 0x1000) (hw : ¬(bits = 32 ∧ off % 4 = 0)) :
    busTarget c (hostAddr c off) bits = .undefinedAccess (.badRegisterAccess off bits) := by
  rw [busTarget_hostAddr, if_neg (by omega), if_neg (by omega), if_neg hw]

theorem hostMove_read_refused (s : State) (off bits : Nat) (h : off < 0x1000) (hw : ¬(bits = 32 ∧ off % 4 = 0)) :
    hostMove (.read (hostAddr s.cfg off) bits) s = .refused (.badRegisterAccess off bits) := by
  simp only [hostMove, busRead, popProg_cfg, busTarget_badRegisterAccess s.cfg off bits h hw]

theorem hostMove_write_refused (s : State) (off bits : Nat) (v : Word) (h : off < 0x1000)
    (hw : ¬(bits = 32 ∧ off % 4 = 0)) :
    hostMove (.write (hostAddr s.cfg off) bits v) s = .refused (.badRegisterAccess off bits) := by
  simp only [hostMove, busWrite, popProg_cfg, busTarget_badRegisterAccess s.cfg off bits h hw]

/-- A 32-bit write below 0x1000 that is not refused is the window's write. -/
theorem hostMove_write_window_next (s t : State) (off : Nat) (v : Word) (h : off < 0x1000)
    (ht : hostMove (.write (hostAddr s.cfg off) 32 v) s = .next t) : t = windowWrite off v (popProg s) := by
  by_cases h4 : off % 4 = 0
  · rw [hostMove_write_window s off v h h4] at ht
    cases ht; rfl
  · rw [hostMove_write_refused s off 32 v h (by simp [h4])] at ht
    cases ht

/-- Only an aligned 32-bit access below 0x1000 reaches the window (R61, R63). -/
theorem busTarget_eq_window (c : Config) (addr bits off : Nat) (h : busTarget c addr bits = .window off) :
    addr = hostAddr c off ∧ bits = 32 ∧ off < 0x1000 := by
  unfold busTarget at h
  split_ifs at h with hbase _ hmem _ hw
  cases h
  exact ⟨by unfold hostAddr; omega, hw.1, Nat.not_le.1 hmem⟩

/-! ### The registers -/

/-- Register reads look at the block alone, not at the host side. -/
theorem regRead_withEnv (q : RegName) (s : State) (e : HostSide) : regRead q { s with env := e } = regRead q s := by
  cases q <;> rfl

theorem regWrite_mem (r : RegName) (v : Word) (s : State) : (regWrite r v s).mem = s.mem := by cases r <;> rfl

theorem regWrite_ro (r : RegName) (v : Word) (s : State) (h : isRo r = true) : regWrite r v s = s := by
  cases r with
  | csSum | csResult | txLen | decType | decCode | decCsum | decId | decSeq | decIhl | decPlAddr | decPlLen => rfl
  | _ => cases h

/-- The mask of the `k` low bits of a word. -/
theorem getLsbD_and_mask (v : Word) (k i : Nat) :
    (v &&& BitVec.ofNat 32 (2 ^ k - 1)).getLsbD i = (v.getLsbD i && decide (i < k)) := by
  rw [BitVec.getLsbD_and, BitVec.getLsbD_ofNat, Nat.testBit_two_pow_sub_one]
  by_cases hi : i < 32
  · simp [hi]
  · simp [BitVec.getLsbD_of_ge v i (by omega)]

theorem setWidth_setWidth_eq_mask (v : Word) (k : Nat) :
    (v.setWidth k).setWidth 32 = v &&& BitVec.ofNat 32 (2 ^ k - 1) := by
  refine BitVec.eq_of_getLsbD_eq fun i hi => ?_
  rw [getLsbD_and_mask]
  simp [hi, Bool.and_comm]

theorem setWidth_and_mask (v : Word) (k : Nat) :
    (v &&& BitVec.ofNat 32 (2 ^ k - 1)).setWidth k = v.setWidth k := by
  refine BitVec.eq_of_getLsbD_eq fun i hi => ?_
  rw [BitVec.getLsbD_setWidth, BitVec.getLsbD_setWidth, getLsbD_and_mask]
  simp [hi]

/-- The mask of all 32 bits changes nothing. -/
theorem and_fullMask (v : Word) : v &&& BitVec.ofNat 32 (2 ^ 32 - 1) = v := by
  rw [← setWidth_setWidth_eq_mask, BitVec.setWidth_eq, BitVec.setWidth_eq]

theorem ctrlWord_ctrlOfWord (v : Word) : ctrlWord (ctrlOfWord v) = v &&& BitVec.ofNat 32 (2 ^ 2 - 1) := by
  refine BitVec.eq_of_getLsbD_eq fun i _ => ?_
  rw [getLsbD_and_mask]
  simp only [ctrlWord, ctrlOfWord, BitVec.getLsbD_append]
  match i with
  | 0 | 1 | i + 2 => simp

/-- A RW register reads back the defined bits of what was written (R23b, R23e). -/
theorem regRead_regWrite_same (r : RegName) (v : Word) (s : State) (h : isRw r = true) :
    regRead r (regWrite r v s) = v &&& BitVec.ofNat 32 (2 ^ definedBits r - 1) := by
  cases r with
  | ctrl => exact ctrlWord_ctrlOfWord v
  | echoId | echoSeq => exact setWidth_setWidth_eq_mask v 16
  | csAddr | csLen | plAddr | plLen | txAddr | rxAddr | rxLen => exact (and_fullMask v).symm
  | _ => cases h

/-- A write to a RW register leaves what every other register reads as (R23e). -/
theorem regRead_regWrite_other (r q : RegName) (v : Word) (s : State) (h : isRw r = true) (hq : q ≠ r) :
    regRead q (regWrite r v s) = regRead q s := by
  cases r with
  | ctrl => cases q with | ctrl => exact absurd rfl hq | _ => rfl
  | csAddr => cases q with | csAddr => exact absurd rfl hq | _ => rfl
  | csLen => cases q with | csLen => exact absurd rfl hq | _ => rfl
  | echoId => cases q with | echoId => exact absurd rfl hq | _ => rfl
  | echoSeq => cases q with | echoSeq => exact absurd rfl hq | _ => rfl
  | plAddr => cases q with | plAddr => exact absurd rfl hq | _ => rfl
  | plLen => cases q with | plLen => exact absurd rfl hq | _ => rfl
  | txAddr => cases q with | txAddr => exact absurd rfl hq | _ => rfl
  | rxAddr => cases q with | rxAddr => exact absurd rfl hq | _ => rfl
  | rxLen => cases q with | rxLen => exact absurd rfl hq | _ => rfl
  | _ => cases h

/-- Bits outside the defined bits do not matter in a write; all of CMD's are defined (R23b). -/
theorem regWrite_mask (r : RegName) (v : Word) (s : State) (h : r ≠ .cmd) :
    regWrite r (v &&& BitVec.ofNat 32 (2 ^ definedBits r - 1)) s = regWrite r v s := by
  cases r with
  | cmd => exact absurd rfl h
  | ctrl => simp only [regWrite, ctrlOfWord, definedBits, getLsbD_and_mask]; simp
  | status => simp only [regWrite, statusWrite, definedBits, getLsbD_and_mask]; simp
  | echoId | echoSeq => simp only [regWrite, definedBits, setWidth_and_mask]
  | csAddr | csLen | plAddr | plLen | txAddr | rxAddr | rxLen => simp only [definedBits, and_fullMask]
  | _ => rfl

/-- A value zero-extended by `m` bits stays below its own width's bound. -/
theorem toNat_zero_append_lt {n : Nat} (m : Nat) (x : BitVec n) : (0#m ++ x).toNat < 2 ^ n := by
  simpa [BitVec.toNat_append] using x.isLt

theorem toNat_setWidth_lt {n : Nat} (m : Nat) (x : BitVec n) : (x.setWidth m).toNat < 2 ^ n :=
  lt_of_le_of_lt (by rw [BitVec.toNat_setWidth]; exact Nat.mod_le _ _) x.isLt

/-- A read has no bit outside the defined bits of its register (R23b). -/
theorem regRead_toNat_lt (r : RegName) (s : State) : (regRead r s).toNat < 2 ^ definedBits r := by
  cases r with
  | ctrl => exact toNat_zero_append_lt 30 _
  | cmd => exact Nat.one_pos
  | status => exact toNat_zero_append_lt 20 _
  | csSum | csResult | echoId | echoSeq | decCsum | decId | decSeq | decType | decCode | decIhl =>
    exact toNat_setWidth_lt 32 _
  | csAddr | csLen | plAddr | plLen | txAddr | txLen | rxAddr | rxLen | decPlAddr | decPlLen => exact BitVec.isLt _

/-! ### STATUS bit by bit (R27) -/

/-- The bit `i` of STATUS, by the table of R27. -/
def statusBit (t : Status) : Nat → Bool
  | 0 => t.busy
  | 1 => t.done
  | 2 => t.err
  | 3 => t.ovr
  | 4 => t.errcode.getLsbD 0
  | 5 => t.errcode.getLsbD 1
  | 6 => t.errcode.getLsbD 2
  | 7 => t.errcode.getLsbD 3
  | 8 => t.csumZero
  | 9 => t.trunc
  | 10 => t.decValid
  | 11 => t.matched
  | _ => false

/-- The table is what STATUS reads as. -/
theorem statusWord_getLsbD (t : Status) (i : Nat) : (statusWord t).getLsbD i = statusBit t i := by
  simp only [statusWord, BitVec.getLsbD_append]
  match i with
  | 0 | 1 | 2 | 3 | 4 | 5 | 6 | 7 | 8 | 9 | 10 | 11 | i + 12 => simp [statusBit]

theorem statusWord_reserved (t : Status) (i : Nat) (h : 12 ≤ i) : (statusWord t).getLsbD i = false := by
  obtain ⟨k, rfl⟩ := Nat.exists_eq_add_of_le' h
  exact statusWord_getLsbD t (k + 12)

theorem statusWord_errcode (t : Status) : (statusWord t).extractLsb' 4 4 = t.errcode := by
  refine BitVec.eq_of_getLsbD_eq fun i hi => ?_
  rw [BitVec.getLsbD_extractLsb', statusWord_getLsbD]
  match i with
  | 0 | 1 | 2 | 3 => simp [statusBit]

/-- A STATUS write clears its two W1C bits where the written word has a 1 and keeps every other bit (R37). -/
theorem statusBit_statusWrite (v : Word) (s : State) (i : Nat) :
    statusBit (statusWrite v s).status i = (statusBit s.status i && !(v.getLsbD i && (i == 1 || i == 3))) := by
  match i with
  | 0 | 1 | 2 | 3 | 4 | 5 | 6 | 7 | 8 | 9 | 10 | 11 | i + 12 => simp [statusBit]

/-- The RO registers stand at eleven offsets (R22). -/
theorem regOffset_ro : (regNames.filter isRo).map regOffset =
    [0x14, 0x18, 0x30, 0x3C, 0x40, 0x44, 0x48, 0x4C, 0x50, 0x54, 0x58] := rfl

/-- At reset every offset reads 0 but ECHO_SEQ's (R22, R190). -/
theorem windowRead_reset (off : Nat) :
    windowRead off State.reset = if off = 0x20 then 0x00000001#32 else 0#32 := by
  cases h : regAt off with
  | none =>
    have ho : off ≠ 0x20 := by rintro rfl; cases h
    simp only [windowRead, h, if_neg ho]
  | some r =>
    obtain rfl := regAt_some off r h
    rw [windowRead_regOffset]
    cases r <;> rfl

end Sys2Proof.Machine

/-! SUPPORT. What the commands and the agents do to the result flags and to OVR (spec/10_state.md R31, R33 to R36), and
what a word that selects no command does (R26, spec/30_encoding.md R81). -/

namespace Sys2Proof.Machine

/-! ### The folded sum fits in 16 bits -/

theorem foldLoop_le (n x : Nat) (h : x ≤ n) : foldLoop n x ≤ 0xFFFF := by
  induction n generalizing x with
  | zero => rw [foldLoop]; omega
  | succ n ih =>
    rw [foldLoop]
    split
    · rename_i hx
      exact ih _ (by have := foldPass_lt x hx; omega)
    · omega

theorem fold_le (x : Nat) : fold x ≤ 0xFFFF := foldLoop_le x x (le_refl x)

theorem inetSum_le (bs : List Byte) : inetSum bs ≤ 0xFFFF := fold_le _

/-- What CSUM_ZERO, CS_SUM and CS_RESULT say of each other after a sum has been latched (R33, R41). -/
abbrev sumLatched (t : State) : Prop :=
  (t.status.csumZero = true ↔ t.res.csResult = 0x0000#16) ∧ (t.status.csumZero = true ↔ t.res.csSum = 0xFFFF#16) ∧
    t.res.csResult.toNat = 0xFFFF - t.res.csSum.toNat

theorem latchSum_sumLatched (x : Nat) (s : State) (hx : x ≤ 0xFFFF) : sumLatched (latchSum x s) := by
  simp only [sumLatched, latchSum_status, latchSum_res, csumZeroFlag_iff, ← BitVec.toNat_inj, BitVec.toNat_ofNat]
  omega

/-! ### OVR -/

/-- No command touches OVR (spec/60_exceptions.md R168). -/
theorem exec_ovr (i : Instr) (s t : State) (h : exec i s = .next t) : t.status.ovr = s.status.ovr := by
  cases i with
  | csum => rcases execCsum_next s t h with ⟨e, _, rfl⟩ | ⟨_, bs, _, rfl⟩ <;> rfl
  | buildEcho => rcases execBuildEcho_next s t h with ⟨e, _, rfl⟩ | ⟨_, pl, _, rfl⟩ <;> rfl
  | decode => rcases execDecode_next s t h with ⟨e, _, rfl⟩ | ⟨_, first, hd, _, _, rfl⟩ <;> rfl

theorem engineMove_ovr (s t : State) (h : engineMove s = .next t) : t.status.ovr = s.status.ovr := by
  rcases engineMove_next s t h with ⟨_, rfl⟩ | ⟨_, _, rfl⟩ | ⟨_, i, _, hi⟩
  · rfl
  · rfl
  · exact exec_ovr i s t hi

/-- The only HOST actions that can touch OVR are `rst` and a write below 0x1000. -/
theorem hostMove_ovr (act : HostAct) (s t : State) (h : hostMove act s = .next t) :
    t.status.ovr = s.status.ovr ∨ act = .rst ∨
      ∃ off v, off < 0x1000 ∧ act = .write (hostAddr s.cfg off) 32 v ∧ t = windowWrite off v (popProg s) := by
  cases act with
  | read addr bits =>
    obtain ⟨e, _, _, rfl⟩ := busRead_next addr bits _ _ h
    exact .inl rfl
  | write addr bits v =>
    rcases busWrite_next addr bits v _ _ h with ⟨x, _, _, rfl⟩ | ⟨off, ho, rfl⟩
    · exact .inl rfl
    · obtain ⟨rfl, rfl, hlt⟩ := busTarget_eq_window _ _ _ _ ho
      exact .inr (.inr ⟨off, v, hlt, rfl, rfl⟩)
  | poll =>
    cases h
    unfold pollStep
    split <;> exact .inl rfl
  | waitIrq =>
    cases h
    split <;> exact .inl rfl
  | rst => exact .inr (.inl rfl)

/-- One step leaves OVR as it was, unless HOST asserts `rst` or writes below 0x1000 in it. -/
theorem step_ovr (s t : State) (h : step s = .next t) :
    t.status.ovr = s.status.ovr ∨
      nextAgent s = .host ∧ ∃ rest, (s.env.prog = .rst :: rest ∧ t.status.ovr = false) ∨
        ∃ off v, off < 0x1000 ∧ s.env.prog = .write (hostAddr s.cfg off) 32 v :: rest ∧
          t.status.ovr = if off = 0x08 then s.status.ovr && !v.getLsbD 3 else s.status.ovr || s.status.busy := by
  rcases step_next s t h with ⟨_, he⟩ | ⟨ha, hh⟩
  · exact .inl (by simpa using engineMove_ovr _ t he)
  · rcases hostTurn_next _ t hh with ⟨_, rfl⟩ | ⟨act, rest, hp, hm⟩
    · exact .inl (by simp)
    · rw [takeTurn_prog] at hp
      rcases hostMove_ovr act _ t hm with hsame | rfl | ⟨off, v, hlt, rfl, rfl⟩
      · exact .inl (by simpa using hsame)
      · cases hm
        exact .inr ⟨ha, rest, .inl ⟨hp, rfl⟩⟩
      · refine .inr ⟨ha, rest, .inr ⟨off, v, hlt, by simpa using hp, ?_⟩⟩
        simp only [windowWrite_ovr, popProg_status, takeTurn_status]

/-- A step in which HOST writes below 0x1000 gives OVR as that write does. -/
theorem step_write_window_ovr (s t : State) (off : Nat) (v : Word) (rest : List HostAct) (h : step s = .next t)
    (ha : nextAgent s = .host) (hlt : off < 0x1000) (hp : s.env.prog = .write (hostAddr s.cfg off) 32 v :: rest) :
    t.status.ovr = if off = 0x08 then s.status.ovr && !v.getLsbD 3 else s.status.ovr || s.status.busy := by
  have hm : hostMove (.write (hostAddr (takeTurn s).cfg off) 32 v) (takeTurn s) = .next t := by
    simpa only [step, ha, hostTurn, takeTurn_prog, hp, takeTurn_cfg] using h
  rw [hostMove_write_window_next _ t off v hlt hm, windowWrite_ovr, popProg_status, takeTurn_status]

/-! ### Words that select no command -/

/-- A word is its two fields (spec/30_encoding.md R80). -/
theorem rsvdField_append_opField (w : Word) : rsvdField w ++ opField w = w := by
  refine BitVec.eq_of_getLsbD_eq fun i hi => ?_
  simp only [rsvdField, opField, BitVec.getLsbD_append, BitVec.getLsbD_extractLsb']
  by_cases h : i < 4
  · simp [h]
  · have : 4 + (i - 4) = i := by omega
    simp [h, this]; omega

/-- A word that decodes to a command is that command's word (R82). -/
theorem eq_encode_of_decode_ok (w : Word) (i : Instr) (h : decode w = .ok i) : w = encode i := by
  unfold decode at h
  rw [← rsvdField_append_opField w]
  split_ifs at h with hr h1 h2 h3
  all_goals cases h
  · rw [not_not.1 hr, h1]; rfl
  · rw [not_not.1 hr, h2]; rfl
  · rw [not_not.1 hr, h3]; rfl

theorem legalWord_encode (i : Instr) : legalWord (encode i) := by cases i <;> decide

theorem decode_error_of_not_legalWord (w : Word) (h : ¬legalWord w) : ∃ r, decode w = .error r := by
  cases hd : decode w with
  | error r => exact ⟨r, rfl⟩
  | ok i => exact absurd (eq_encode_of_decode_ok w i hd ▸ legalWord_encode i) h

/-- ENGINE completes a pending word that is no command with ILLEGAL_CMD (spec/60_exceptions.md R162). -/
theorem engineMove_illegal (s : State) (hb : s.status.busy = true) (h : ¬legalWord s.pend) :
    engineMove s = .next (performIllegal s) := by
  obtain ⟨r, hr⟩ := decode_error_of_not_legalWord s.pend h
  simp only [engineMove, hb, if_true, fetch, hr]

/-- irq is a function of state (R59). -/
theorem irq_iff (s : State) : s.irq = true ↔ s.ctrl.ie = true ∧ s.status.done = true := Bool.and_eq_true_iff

end Sys2Proof.Machine

/-! CERTIFICATE. The statements about the block's registers and flags (spec/10_state.md), settled. -/

namespace Sys2Proof.Proofs

open Sys2Proof Sys2Proof.Machine

/-- Settles O25: each command's completions, by what `exec` can answer. -/
theorem resultFlags : Obligations.ResultFlags := by
  unfold Obligations.ResultFlags
  refine ⟨fun i s t h => ?_, fun s w => ⟨⟨rfl, rfl, rfl, rfl⟩, rfl, rfl, rfl, rfl⟩⟩
  cases i with
  | csum =>
    rcases execCsum_next s t h with ⟨e, _, rfl⟩ | ⟨_, bs, _, rfl⟩
    · simp
    · have hsum : sumLatched (latchSum (inetSum bs) s) := latchSum_sumLatched _ s (inetSum_le bs)
      simpa [sumLatched] using hsum
  | buildEcho =>
    rcases execBuildEcho_next s t h with ⟨e, _, rfl⟩ | ⟨_, pl, _, rfl⟩
    · simp
    · have hsum : sumLatched (latchSum (packetSum s.ops.echoId s.ops.echoSeq pl) s) :=
        latchSum_sumLatched _ s (inetSum_le _)
      have htrunc := truncFlag_iff s.ops.plLen.toNat
      simpa [sumLatched, htrunc] using hsum
  | decode =>
    rcases execDecode_next s t h with ⟨e, _, rfl⟩ | ⟨_, first, hd, _, _, rfl⟩
    · simp [decodeFail]
    · have hmatch := matchFlag_iff (headerByte hd 0) (headerHalf hd 4) s.ops.echoId
      simpa using hmatch

/-- Settles O37: OVR is touched by `rst` and by a write below 0x1000 alone, and such a write sets or clears it by its
offset. -/
theorem ovrIsSticky : Obligations.OvrIsSticky := by
  unfold Obligations.OvrIsSticky
  intro s t h
  refine ⟨fun hs ht => ?falls, fun hs ht => ?rises, fun off v rest ha hb hlt hne hp => ?sets,
    fun v rest ha hp hv => ?clears⟩
  case falls =>
    rcases step_ovr s t h with hsame | ⟨ha, rest, ⟨hp, _⟩ | ⟨off, v, _, hp, ho⟩⟩
    · simp [hs, ht] at hsame
    · exact ⟨ha, rest, .inl hp⟩
    · by_cases h8 : off = 0x08
      · subst h8
        exact ⟨ha, rest, .inr ⟨v, hp, by simpa [hs, ht] using ho⟩⟩
      · simp [h8, hs, ht] at ho
  case rises =>
    rcases step_ovr s t h with hsame | ⟨ha, rest, ⟨_, hf⟩ | ⟨off, v, hlt, hp, ho⟩⟩
    · simp [hs, ht] at hsame
    · simp [ht] at hf
    · by_cases h8 : off = 0x08
      · simp [h8, hs, ht] at ho
      · exact ⟨ha, by simpa [h8, hs, ht] using ho, off, v, rest, hlt, h8, hp⟩
  case sets => rw [step_write_window_ovr s t off v rest h ha hlt hp, if_neg hne, hb, Bool.or_true]
  case clears => rw [step_write_window_ovr s t 0x08 v rest h ha (by omega) hp, if_pos rfl, hv]; simp

/-- Settles O41, rule by rule of R23. -/
theorem registerAccess : Obligations.RegisterAccess := by
  unfold Obligations.RegisterAccess
  refine ⟨fun s off bits v hlt hw => ?width, fun s r => regRead_toNat_lt r s, fun s r v hb hro => ?ro,
    fun s r => ?read, fun s r v hb hrw => ?rw, fun s r v => hostMove_writeReg_busy s r v, fun s r v hr => ?mask⟩
  case width =>
    exact ⟨⟨_, hostMove_read_refused s off bits (by omega) hw⟩, ⟨_, hostMove_write_refused s off bits v (by omega) hw⟩⟩
  case ro => rw [hostMove_writeReg_idle s r v hb, regWrite_ro r v (popProg s) hro]
  case read => exact ⟨_, readsAs_reg s r, rfl, fun q => regRead_withEnv q s _⟩
  case rw =>
    refine ⟨_, hostMove_writeReg_idle s r v hb, regRead_regWrite_same r v _ hrw, fun q hq => ?_, regWrite_mem r v _⟩
    rw [regRead_regWrite_other r q v _ hrw hq]
    exact regRead_withEnv q s _
  case mask =>
    simp only [hostMove_writeReg, windowWrite_regOffset, regWrite_mask r v _ hr]

/-- Settles O43: no register stands at a reserved offset. -/
theorem reservedOffsets : Obligations.ReservedOffsets := by
  unfold Obligations.ReservedOffsets
  intro s off v hlo hlt h4
  refine ⟨⟨_, readsAs_reserved s off hlo hlt h4, rfl⟩, fun hb => writesTo_reserved_idle s off v hb hlo hlt h4,
    fun hb => ?_⟩
  rw [hostMove_write_window s off v hlt h4, windowWrite_busy off v (popProg s) hb (by omega)]

/-- Settles O53: an offset of the map reads and writes its register, every other one is reserved. -/
theorem registerMap : Obligations.RegisterMap := by
  unfold Obligations.RegisterMap
  refine ⟨fun s => ?reads, fun s v hb => ?writes, fun off hlt h4 => ?reset, rfl⟩
  case reads =>
    have h := readsAs_reg s
    exact ⟨h .ctrl, h .cmd, h .status, h .csAddr, h .csLen, h .csSum, h .csResult, h .echoId, h .echoSeq, h .plAddr,
      h .plLen, h .txAddr, h .txLen, h .rxAddr, h .rxLen, h .decType, h .decCode, h .decCsum, h .decId, h .decSeq,
      h .decIhl, h .decPlAddr, h .decPlLen, fun off hlo hlt h4 => readsAs_reserved s off hlo (by omega) h4⟩
  case writes =>
    have h := fun r => hostMove_writeReg_idle s r v hb
    refine ⟨h .ctrl, h .cmd, h .status, h .csAddr, h .csLen, h .echoId, h .echoSeq, h .plAddr, h .plLen, h .txAddr,
      h .rxAddr, h .rxLen, fun off hoff => ?_,
      fun off hlo hlt h4 => writesTo_reserved_idle s off v hb hlo (by omega) h4⟩
    rw [← regOffset_ro] at hoff
    obtain ⟨r, hr, rfl⟩ := List.mem_map.1 hoff
    have hro : isRo r = true := (List.mem_filter.1 hr).2
    have hwrite := h r
    rw [regWrite_ro r v (popProg s) hro] at hwrite
    exact hwrite
  case reset =>
    rw [← windowRead_reset]
    exact readsAs_window State.reset off (by omega) h4

/-- Settles O38: the write lands as an issue or is dropped, by BUSY; ENGINE alone decodes the word. -/
theorem cmdIssue : Obligations.CmdIssue := by
  unfold Obligations.CmdIssue
  intro s w
  refine ⟨fun hb => ?issued, fun hb => ?dropped, ⟨_, readsAs_reg s .cmd, rfl⟩⟩
  case issued =>
    refine ⟨_, hostMove_writeReg_idle s .cmd w hb, rfl, rfl, rfl, ⟨rfl, rfl, rfl, rfl, rfl, rfl, rfl⟩, fun hw => ?_⟩
    exact ⟨_, engineMove_illegal (issue w (popProg s)) rfl hw, rfl⟩
  case dropped =>
    exact ⟨_, hostMove_writeReg_busy s .cmd w hb (by simp), rfl, rfl, rfl, rfl, rfl, rfl, rfl, rfl, rfl⟩

/-- Settles O39: a STATUS write is dropped in no state. -/
theorem statusWrite : Obligations.StatusWrite := by
  unfold Obligations.StatusWrite
  intro s v
  refine ⟨_, hostMove_writeReg_status s v, ?_, rfl, rfl, rfl, rfl, rfl, rfl, rfl, rfl⟩
  rw [statusWrite_status]
  cases v.getLsbD 1 <;> cases v.getLsbD 3 <;> simp

/-- Settles O49: each of the three writes clears IE or DONE. -/
theorem irqFollowsDone : Obligations.IrqFollowsDone := by
  unfold Obligations.IrqFollowsDone
  refine ⟨irq_iff, rfl, fun s w hb => ⟨fun t h => ?ack, fun t h => ?issue, fun t hw h => ?ie⟩⟩
  case ack =>
    rw [hostMove_writeReg_status] at h
    cases h; simp [State.irq]
  case issue =>
    rw [hostMove_writeReg_idle s .cmd w hb] at h
    cases h; simp [State.irq, regWrite]
  case ie =>
    rw [hostMove_writeReg_idle s .ctrl w hb] at h
    cases h; exact ⟨by simp only [State.irq, regWrite, ctrlOfWord, hw, Bool.false_and], rfl⟩

/-- Settles O54: the STATUS word is the table of R27, before and after a STATUS write. -/
theorem statusBits : Obligations.StatusBits := by
  unfold Obligations.StatusBits
  refine ⟨fun s => ?read, fun s v => ⟨_, hostMove_writeReg_status s v, fun i => ?write⟩,
    readsAs_reg State.reset .status⟩
  case read =>
    have h := statusWord_getLsbD s.status
    exact ⟨_, readsAs_reg s .status, h 0, h 1, h 2, h 3, statusWord_errcode s.status, h 8, h 9, h 10, h 11,
      statusWord_reserved s.status⟩
  case write =>
    rw [statusWord_getLsbD, statusWord_getLsbD]
    exact statusBit_statusWrite v (popProg s) i

end Sys2Proof.Proofs

/-! SUPPORT. Which host accesses are refused (spec/20_memory.md R61, R63), and what an access to the MEM window does
while BUSY = 0 (R62). -/

namespace Sys2Proof.Machine

/-! ### Refused accesses -/

/-- By host offset, the accesses that reach nothing are those that R61 to R63 do not define. -/
theorem busTarget_undefined_iff (c : Config) (off bits : Nat) :
    (∃ r, busTarget c (hostAddr c off) bits = .undefinedAccess r) ↔ ¬accessWf c off bits := by
  rw [busTarget_hostAddr]
  split_ifs with hend hmem h8 hw
  · exact iff_of_true ⟨_, rfl⟩ (by omega)
  · exact iff_of_false (by simp) (by omega)
  · exact iff_of_true ⟨_, rfl⟩ (by omega)
  · exact iff_of_false (by simp) (by omega)
  · exact iff_of_true ⟨_, rfl⟩ (by omega)

/-- A MEM byte write lands or is HAZARD; it is never refused. -/
theorem memWindowWrite_ne_refused (x : Nat) (b : Byte) (s : State) (r : Refusal) :
    memWindowWrite x b s ≠ .refused r := by
  unfold memWindowWrite
  split <;> simp

theorem busRead_refused_iff (addr bits : Nat) (s : State) (r : Refusal) :
    busRead addr bits s = .refused r ↔ busTarget s.cfg addr bits = .undefinedAccess r := by
  unfold busRead
  cases busTarget s.cfg addr bits <;> simp

theorem busWrite_refused_iff (addr bits : Nat) (v : Word) (s : State) (r : Refusal) :
    busWrite addr bits v s = .refused r ↔ busTarget s.cfg addr bits = .undefinedAccess r := by
  unfold busWrite
  cases busTarget s.cfg addr bits <;> simp [memWindowWrite_ne_refused]

/-- A read is refused exactly where the interface does not define the access (R63). -/
theorem hostMove_read_refused_iff (s : State) (off bits : Nat) :
    (∃ r, hostMove (.read (hostAddr s.cfg off) bits) s = .refused r) ↔ ¬accessWf s.cfg off bits := by
  simp only [hostMove, busRead_refused_iff, popProg_cfg, busTarget_undefined_iff]

/-- A write is refused exactly where the interface does not define the access (R63). -/
theorem hostMove_write_refused_iff (s : State) (off bits : Nat) (v : Word) :
    (∃ r, hostMove (.write (hostAddr s.cfg off) bits v) s = .refused r) ↔ ¬accessWf s.cfg off bits := by
  simp only [hostMove, busWrite_refused_iff, popProg_cfg, busTarget_undefined_iff]

/-! ### The MEM window -/

/-- While BUSY = 0 no write is HAZARD. -/
theorem memWindowWrite_idle (x : Nat) (b : Byte) (s : State) (hb : s.status.busy = false) :
    memWindowWrite x b s = .next (memWrite x [b] s) := by
  simp [memWindowWrite, hazardous, hb]

/-- A written byte reads as its value, unless it lies in the write footprint of a pending command. -/
theorem memWindowRead_written (x : Nat) (b : Byte) (s : State)
    (hf : s.status.busy = true → inWriteFootprint s x = false) (hr : Memory.read s.mem x = some b) :
    memWindowRead x s = recordRead (b.setWidth 32) s := by
  have hclear : ¬(s.status.busy && inWriteFootprint s x) = true := by simpa using hf
  rw [memWindowRead, if_neg hclear, hr]

/-- One byte written sets and marks that byte and no other. -/
theorem memWrite_one_read (a x : Nat) (b : Byte) (s : State) :
    Memory.read (memWrite a [b] s).mem x = if x = a then some b else Memory.read s.mem x :=
  Memory.read_write s.mem a x b

end Sys2Proof.Machine

/-! CERTIFICATE. The statements about host accesses and the MEM window (spec/20_memory.md), settled. -/

namespace Sys2Proof.Proofs

open Sys2Proof Sys2Proof.Machine

/-- Settles O42: an access is refused exactly where its host offset reaches nothing. -/
theorem undefinedAccessesRefused : Obligations.UndefinedAccessesRefused := by
  unfold Obligations.UndefinedAccessesRefused
  exact fun s off bits v => ⟨hostMove_read_refused_iff s off bits, hostMove_write_refused_iff s off bits v⟩

/-- Settles O44: a width other than 8 is undefined there, and while BUSY = 0 neither hazard can arise. -/
theorem memWindow : Obligations.MemWindow := by
  unfold Obligations.MemWindow
  intro s a b hb ha
  refine ⟨fun bits v h8 => ?width, ?write, fun hr => ?read⟩
  case width =>
    have hundef : ¬accessWf s.cfg (0x1000 + a) bits := fun ⟨_, _, hmem⟩ => h8 (hmem (by omega))
    exact ⟨(hostMove_read_refused_iff s _ bits).2 hundef, (hostMove_write_refused_iff s _ bits v).2 hundef⟩
  case write =>
    refine ⟨memWrite a [b] (popProg s), ?_, fun x => memWrite_one_read a x b (popProg s), rfl⟩
    rw [hostMove_storeByte s a b ha, memWindowWrite_idle a b (popProg s) hb]
  case read =>
    rw [hostMove_loadByte s a ha, memWindowRead_written a b (popProg s) (by simp [hb]) hr]

end Sys2Proof.Proofs

/-! SUPPORT. The decoder and the encoder are inverse to each other (spec/30_encoding.md R80 to R82). -/

namespace Sys2Proof.Machine

/-- Each command's word passes the RSVD test and selects that command by OP (R81). -/
@[simp] theorem decode_encode (i : Instr) : decode (encode i) = .ok i := by cases i <;> rfl

theorem decode_eq_ok_iff (w : Word) (i : Instr) : decode w = .ok i ↔ w = encode i := by
  constructor
  · exact eq_encode_of_decode_ok w i
  · rintro rfl
    exact decode_encode i

/-- The legal words are the commands' words, one for each row of the opcode map (R82). -/
theorem exists_encode_of_legalWord (w : Word) (h : legalWord w) : ∃ i, w = encode i := by
  rcases h with rfl | rfl | rfl
  · exact ⟨.csum, rfl⟩
  · exact ⟨.buildEcho, rfl⟩
  · exact ⟨.decode, rfl⟩

theorem decode_eq_error_iff (w : Word) : (∃ r, decode w = .error r) ↔ ¬legalWord w := by
  constructor
  · rintro ⟨r, hr⟩ hlegal
    obtain ⟨i, rfl⟩ := exists_encode_of_legalWord w hlegal
    simp at hr
  · exact decode_error_of_not_legalWord w

end Sys2Proof.Machine

/-! CERTIFICATE. The statement about the encoding of commands (spec/30_encoding.md), settled. -/

namespace Sys2Proof.Proofs

open Sys2Proof Sys2Proof.Machine

/-- Settles O1: a word is its two fields, so one that passes the decoder's tests is the word of the selected command. -/
theorem oneWordPerCommand : Obligations.OneWordPerCommand := by
  unfold Obligations.OneWordPerCommand
  exact ⟨⟨rfl, rfl, rfl⟩, fun w => ⟨decode_eq_ok_iff w, decode_eq_error_iff w⟩⟩

end Sys2Proof.Proofs

/-! SUPPORT. Fold as the end-around-carry loop and in closed form: its value is fixed by the residue modulo 0xFFFF and
by whether the sum is zero (spec/40_checksum.md R101, R105). -/

namespace Sys2Proof.Machine

/-! ### The loop -/

theorem fold_of_le (x : Nat) (h : x ≤ 0xFFFF) : fold x = x := by
  unfold fold
  cases x with
  | zero => rfl
  | succ n => rw [foldLoop, if_neg (by omega)]

theorem fold_of_lt (x : Nat) (h : 0xFFFF < x) : fold x = fold (foldPass x) := by
  unfold fold
  cases x with
  | zero => omega
  | succ n =>
    rw [foldLoop, if_pos h]
    exact foldLoop_fuel _ _ _ (by have := foldPass_lt _ h; omega) (le_refl _)

/-! ### The closed form -/

theorem foldPass_eq_zero_iff (x : Nat) : foldPass x = 0 ↔ x = 0 := by
  unfold foldPass; omega

/-- What every pass keeps, the loop keeps: the residue modulo 0xFFFF, and whether the sum is zero. -/
theorem fold_keeps (x : Nat) : fold x % 0xFFFF = x % 0xFFFF ∧ (fold x = 0 ↔ x = 0) := by
  induction x using Nat.strong_induction_on with
  | _ x ih =>
    rcases Nat.lt_or_ge 0xFFFF x with h | h
    · obtain ⟨hmod, hzero⟩ := ih (foldPass x) (foldPass_lt x h)
      rw [fold_of_lt x h, hmod, hzero]
      exact ⟨foldPass_mod x, foldPass_eq_zero_iff x⟩
    · rw [fold_of_le x h]
      exact ⟨rfl, Iff.rfl⟩

theorem fold_mod (x : Nat) : fold x % 0xFFFF = x % 0xFFFF := (fold_keeps x).1

theorem fold_eq_zero_iff (x : Nat) : fold x = 0 ↔ x = 0 := (fold_keeps x).2

/-- The one number from 0 to 0xFFFF with the residue of `x` that is zero exactly where `x` is. -/
theorem fold_eq_of_mod (x r : Nat) (hr : r ≤ 0xFFFF) (hmod : r % 0xFFFF = x % 0xFFFF) (hzero : r = 0 ↔ x = 0) :
    fold x = r := by
  have hle := fold_le x
  have hm := fold_mod x
  have hz := fold_eq_zero_iff x
  omega

theorem fold_closed_form (x : Nat) (h : 0 < x) : fold x = (x - 1) % 0xFFFF + 1 :=
  fold_eq_of_mod x _ (by omega) (by omega) (by omega)

/-- Folding early does not change the folded sum (R105). -/
theorem fold_add_fold (x y : Nat) : fold (x + y) = fold (fold x + y) := by
  have hm := fold_mod x
  have hz := fold_eq_zero_iff x
  exact fold_eq_of_mod _ _ (fold_le _) (by rw [fold_mod]; omega) (by rw [fold_eq_zero_iff]; omega)

/-- A folded sum and its complement add up to 0xFFFF (R106). -/
theorem fold_add_complement (x : Nat) : fold (x + (0xFFFF - fold x)) = 0xFFFF := by
  have hle := fold_le x
  calc fold (x + (0xFFFF - fold x)) = fold (fold x + (0xFFFF - fold x)) := fold_add_fold _ _
    _ = fold 0xFFFF := by rw [Nat.add_sub_cancel' hle]
    _ = 0xFFFF := fold_of_le _ (le_refl _)

end Sys2Proof.Machine

/-! SUPPORT. The words of a buffer and their sum: bounds, order, accumulators, padding and byte order
(spec/40_checksum.md R100, R103, R105 to R109). -/

namespace Sys2Proof.Machine

theorem wordsOf_length (bs : List Byte) : (wordsOf bs).length = (bs.length + 1) / 2 := by
  induction bs using wordsOf.induct with
  | case1 => simp [wordsOf]
  | case2 b => simp [wordsOf]
  | case3 b0 b1 bs ih =>
    simp only [wordsOf, List.length_cons, ih]
    omega

theorem wordSum_le (ws : List Half) : wordSum ws ≤ ws.length * 0xFFFF := by
  induction ws with
  | nil => simp
  | cons w ws ih =>
    have := w.isLt
    rw [wordSum_cons, List.length_cons]
    omega

theorem wordSum_perm (vs ws : List Half) (h : vs.Perm ws) : wordSum vs = wordSum ws :=
  (h.map BitVec.toNat).sum_eq

theorem inetSum_perm (bs cs : List Byte) (h : (wordsOf bs).Perm (wordsOf cs)) : inetSum bs = inetSum cs := by
  rw [inetSum, inetSum, wordSum_perm _ _ h]

theorem be16_toNat_eq_zero_iff (a b : Byte) : (be16 a b).toNat = 0 ↔ a = 0#8 ∧ b = 0#8 := by
  rw [be16_toNat, ← BitVec.toNat_inj, ← BitVec.toNat_inj]
  simp

theorem wordSum_wordsOf_eq_zero_iff (bs : List Byte) : wordSum (wordsOf bs) = 0 ↔ ∀ b ∈ bs, b = 0#8 := by
  induction bs using wordsOf.induct with
  | case1 => simp [wordsOf]
  | case2 b => simp [wordsOf, be16_toNat_eq_zero_iff]
  | case3 b0 b1 bs ih =>
    simp [wordsOf, be16_toNat_eq_zero_iff, ih, and_assoc]

theorem inetSum_eq_zero_iff (bs : List Byte) : inetSum bs = 0 ↔ ∀ b ∈ bs, b = 0#8 :=
  (fold_eq_zero_iff _).trans (wordSum_wordsOf_eq_zero_iff bs)

theorem inetChecksum_eq_ffff_iff (bs : List Byte) : inetChecksum bs = 0xFFFF ↔ inetSum bs = 0 := by
  have := inetSum_le bs
  unfold inetChecksum
  omega

/-- The folded sum as CS_SUM holds it. -/
theorem inetSum_toNat (bs : List Byte) : (BitVec.ofNat 16 (inetSum bs)).toNat = inetSum bs :=
  Nat.mod_eq_of_lt (Nat.lt_succ_of_le (inetSum_le bs))

/-- The checksum as CS_RESULT holds it. -/
theorem inetChecksum_toNat (bs : List Byte) : (BitVec.ofNat 16 (inetChecksum bs)).toNat = 0xFFFF - inetSum bs := by
  rw [BitVec.toNat_ofNat, inetChecksum]
  omega

/-! ### Accumulators (R103) -/

/-- A 32-bit accumulator holds the exact sum modulo 2^32. -/
theorem foldl_add_setWidth_toNat (ws : List Half) (a : Word) :
    (ws.foldl (fun acc w => acc + w.setWidth 32) a).toNat = (a.toNat + wordSum ws) % 2 ^ 32 := by
  induction ws generalizing a with
  | nil => simp [Nat.mod_eq_of_lt a.isLt]
  | cons w ws ih =>
    have := w.isLt
    rw [List.foldl_cons, ih, wordSum_cons, BitVec.toNat_add, BitVec.toNat_setWidth]
    omega

/-- Folding after every addition gives the fold of the exact sum. -/
theorem foldl_fold_add (ws : List Half) (x : Nat) :
    ws.foldl (fun acc w => fold (acc + w.toNat)) (fold x) = fold (x + wordSum ws) := by
  induction ws generalizing x with
  | nil => simp
  | cons w ws ih => rw [List.foldl_cons, ← fold_add_fold, ih, wordSum_cons, Nat.add_assoc]

/-! ### Padding, and a field at an even offset (R106, R107) -/

theorem wordsOf_append_zero (bs : List Byte) (h : bs.length % 2 = 1) : wordsOf (bs ++ [0#8]) = wordsOf bs := by
  induction bs using wordsOf.induct with
  | case1 => simp at h
  | case2 b => rfl
  | case3 b0 b1 bs ih =>
    simp only [List.cons_append, wordsOf]
    rw [ih (by simp only [List.length_cons] at h; omega)]

/-- Two bytes at an even offset add one word to the sum of the buffer with zeros there. -/
theorem wordSum_field (front rest : List Byte) (a b : Byte) (h : front.length % 2 = 0) :
    wordSum (wordsOf (front ++ [a, b] ++ rest)) =
      wordSum (wordsOf (front ++ [0#8, 0#8] ++ rest)) + (be16 a b).toNat := by
  have hzero : (be16 0#8 0#8).toNat = 0 := rfl
  simp only [List.append_assoc, List.cons_append, List.nil_append, wordsOf_append front _ h, wordsOf, wordSum_append,
    wordSum_cons, hzero]
  omega

theorem set_field (front rest : List Byte) (a b c d : Byte) :
    ((front ++ [a, b] ++ rest).set front.length c).set (front.length + 1) d = front ++ [c, d] ++ rest := by
  simp

/-- The checksum of a buffer, put into its zero field, completes the sum to 0xFFFF (R106). -/
theorem inetSum_insert_checksum (front rest : List Byte) (c : Half) (h : front.length % 2 = 0)
    (hc : c = BitVec.ofNat 16 (inetChecksum (front ++ [0#8, 0#8] ++ rest))) :
    inetSum (front ++ [hi8 c, lo8 c] ++ rest) = 0xFFFF := by
  rw [inetSum, wordSum_field _ _ _ _ h, be16_hi8_lo8, hc, inetChecksum_toNat]
  exact fold_add_complement _

/-! ### Byte order (R109) -/

theorem swap16_be16 (a b : Byte) : swap16 (be16 a b) = be16 b a := by
  rw [← BitVec.toNat_inj, swap16_toNat, be16_toNat, be16_toNat]
  omega

theorem wordsLittle_eq_map_swap16 (bs : List Byte) : wordsLittle bs = (wordsOf bs).map swap16 := by
  induction bs using wordsOf.induct with
  | case1 => rfl
  | case2 b => rw [wordsLittle, wordsOf, List.map_singleton, swap16_be16]
  | case3 b0 b1 bs ih => rw [wordsLittle, wordsOf, List.map_cons, swap16_be16, ih]

/-- The complement of a folded sum is the bitwise one (R102). -/
theorem complement_eq_not (x : Nat) (v : Half) (h : v.toNat = x) : BitVec.ofNat 16 (0xFFFF - x) = ~~~v := by
  rw [← BitVec.toNat_inj, BitVec.toNat_ofNat, BitVec.toNat_not, ← h]
  omega

theorem hi8_swap16 (v : Half) : hi8 (swap16 v) = lo8 v := by
  rw [← BitVec.toNat_inj, hi8_toNat, swap16_toNat, lo8_toNat]
  omega

theorem lo8_swap16 (v : Half) : lo8 (swap16 v) = hi8 v := by
  rw [← BitVec.toNat_inj, lo8_toNat, swap16_toNat, hi8_toNat]
  omega

/-- A complement is taken byte by byte, so a byte swap may be done before or after it. -/
theorem swap16_not (v : Half) : swap16 (~~~v) = ~~~swap16 v := by
  have hv := v.isLt
  have hhi : (2 ^ 16 - 1 - v.toNat) / 256 = 255 - v.toNat / 256 := by omega
  have hlo : (2 ^ 16 - 1 - v.toNat) % 256 = 255 - v.toNat % 256 := by omega
  rw [← BitVec.toNat_inj, BitVec.toNat_not, swap16_toNat, swap16_toNat, BitVec.toNat_not, hhi, hlo]
  omega

/-- A byte swap multiplies by 256 modulo 0xFFFF, since 2^16 is 1 there. -/
theorem wordSum_map_swap16_mod (ws : List Half) :
    wordSum (ws.map swap16) % 0xFFFF = 256 * wordSum ws % 0xFFFF := by
  induction ws with
  | nil => rfl
  | cons w ws ih =>
    rw [List.map_cons, wordSum_cons, wordSum_cons, swap16_toNat]
    omega

theorem wordSum_map_swap16_eq_zero_iff (ws : List Half) : wordSum (ws.map swap16) = 0 ↔ wordSum ws = 0 := by
  induction ws with
  | nil => rfl
  | cons w ws ih =>
    rw [List.map_cons, wordSum_cons, wordSum_cons, swap16_toNat]
    omega

/-- The little-endian folded sum is the byte swap of the big-endian one. -/
theorem fold_wordSum_wordsLittle (bs : List Byte) :
    fold (wordSum (wordsLittle bs)) = (swap16 (BitVec.ofNat 16 (inetSum bs))).toNat := by
  have hmod : inetSum bs % 0xFFFF = wordSum (wordsOf bs) % 0xFFFF := fold_mod _
  have hzero : inetSum bs = 0 ↔ wordSum (wordsOf bs) = 0 := fold_eq_zero_iff _
  have hlmod := wordSum_map_swap16_mod (wordsOf bs)
  have hlzero := wordSum_map_swap16_eq_zero_iff (wordsOf bs)
  rw [wordsLittle_eq_map_swap16, swap16_toNat, inetSum_toNat]
  have hle := inetSum_le bs
  exact fold_eq_of_mod _ _ (by omega) (by omega) (by omega)

end Sys2Proof.Machine

/-! SUPPORT. What CSUM answers in each of its three cases (spec/40_checksum.md R104). -/

namespace Sys2Proof.Machine

theorem memRead_of_holdsAt (cmd : Instr) (a : Nat) (s : State) (bs : List Byte) (h : holdsAt s.mem a bs) :
    memRead cmd a bs.length s = .ok bs :=
  (memRead_ok cmd a bs.length s bs).2 ⟨rfl, h⟩

theorem csumError_of_lt (s : State) (h : s.cfg.memSize < s.ops.csAddr.toNat + s.ops.csLen.toNat) :
    csumError s = some .badRange := by
  rw [csumError, inRange, decide_eq_false (by omega)]
  rfl

theorem exec_csum_of_lt (s : State) (h : s.cfg.memSize < s.ops.csAddr.toNat + s.ops.csLen.toNat) :
    exec .csum s = .next (raiseError .badRange s) := by
  simp only [exec, execCsum, csumError_of_lt s h]

theorem exec_csum_of_holdsAt (s : State) (bs : List Byte)
    (hr : s.ops.csAddr.toNat + s.ops.csLen.toNat ≤ s.cfg.memSize) (hl : s.ops.csLen.toNat = bs.length)
    (h : holdsAt s.mem s.ops.csAddr.toNat bs) :
    exec .csum s = .next (complete (latchSum (inetSum bs) s)) := by
  simp only [exec, execCsum, (csumError_none s).2 hr, hl, memRead_of_holdsAt .csum _ s bs h]

theorem exec_csum_of_firstUnwritten (s : State) (x : Nat)
    (hr : s.ops.csAddr.toNat + s.ops.csLen.toNat ≤ s.cfg.memSize)
    (h : firstUnwritten s.mem s.ops.csAddr.toNat s.ops.csLen.toNat x) :
    exec .csum s = .fault (.uninitRead .csum x) := by
  have hread : memRead .csum s.ops.csAddr.toNat s.ops.csLen.toNat s = .error (.uninitRead .csum x) :=
    (memRead_error _ _ _ _ _).2 ⟨x, rfl, h⟩
  simp only [exec, execCsum, (csumError_none s).2 hr, hread]

/-- A successful CSUM over bytes in memory latches the sum of these bytes. -/
theorem exec_csum_success (s t : State) (bs : List Byte) (h : exec .csum s = .next t) (he : t.status.err = false)
    (hl : s.ops.csLen.toNat = bs.length) (hm : holdsAt s.mem s.ops.csAddr.toNat bs) :
    t = complete (latchSum (inetSum bs) s) := by
  rcases execCsum_next s t h with ⟨e, _, rfl⟩ | ⟨hn, _⟩
  · simp at he
  · rw [exec_csum_of_holdsAt s bs ((csumError_none s).1 hn) hl hm] at h
    exact (Host.Outcome.next.inj h).symm

end Sys2Proof.Machine

/-! CERTIFICATE. The statements about the checksum functions and CSUM (spec/40_checksum.md), settled. -/

namespace Sys2Proof.Proofs

open Sys2Proof Sys2Proof.Machine

/-- Settles O5: one turn of the loop is `foldPass`. -/
theorem foldEndAroundCarry : Obligations.FoldEndAroundCarry := by
  unfold Obligations.FoldEndAroundCarry
  exact fun x => ⟨fold_of_le x, fun h => ⟨fold_of_lt x h, foldPass_lt x h⟩, fold_le x⟩

/-- Settles O6: the loop keeps the residue modulo 0xFFFF and whether the sum is zero, and these two fix its result. -/
theorem foldClosedForm : Obligations.FoldClosedForm := by
  unfold Obligations.FoldClosedForm
  refine ⟨fold_eq_zero_iff, fun x h => ⟨fold_closed_form x h, ?_, fold_le x⟩, fold_add_fold, inetSum_perm,
    fun bs => ⟨inetSum_eq_zero_iff bs, (inetChecksum_eq_ffff_iff bs).trans (inetSum_eq_zero_iff bs)⟩⟩
  rw [fold_closed_form x h]
  omega

/-- Settles O7: the exact sum stays below 2^32, so the 32-bit accumulator loses nothing. -/
theorem accumulatorIsExact : Obligations.AccumulatorIsExact := by
  unfold Obligations.AccumulatorIsExact
  rintro c bs ⟨_, hmax⟩ hlen
  have hsum : wordSum (wordsOf bs) ≤ (c.memSize + 1) / 2 * 0xFFFF :=
    calc wordSum (wordsOf bs) ≤ (wordsOf bs).length * 0xFFFF := wordSum_le _
      _ = (bs.length + 1) / 2 * 0xFFFF := by rw [wordsOf_length]
      _ ≤ (c.memSize + 1) / 2 * 0xFFFF := Nat.mul_le_mul_right _ (by omega)
  have hbound : (c.memSize + 1) / 2 * 0xFFFF ≤ 65536 * 0xFFFF := Nat.mul_le_mul_right _ (by omega)
  refine ⟨hsum, hbound, by decide, ?onceAtTheEnd, ?everyAddition⟩
  case onceAtTheEnd =>
    rw [foldl_add_setWidth_toNat, BitVec.toNat_ofNat, Nat.zero_mod, Nat.zero_add, Nat.mod_eq_of_lt (by omega), inetSum]
  case everyAddition => exact (foldl_fold_add (wordsOf bs) 0).trans (by rw [Nat.zero_add, inetSum])

/-- Settles O8: the padded buffer has the same words. -/
theorem oddLengthLaw : Obligations.OddLengthLaw := by
  unfold Obligations.OddLengthLaw
  intro bs h
  have hwords := wordsOf_append_zero bs h
  have hsum : inetSum (bs ++ [0#8]) = inetSum bs := by rw [inetSum, hwords, inetSum]
  exact ⟨hwords, hsum, by rw [inetChecksum, hsum, inetChecksum]⟩

/-- Settles O9: both states latch the sum of the same bytes. -/
theorem symmetryLaw : Obligations.SymmetryLaw := by
  unfold Obligations.SymmetryLaw
  refine ⟨fun s u t v bs hs hu hts hvu hls hlu hms hmu => ?_, fun bs cs h => ?_, by decide, by decide⟩
  · rw [exec_csum_success s t bs hs hts hls hms, exec_csum_success u v bs hu hvu hlu hmu]
    exact ⟨rfl, rfl, rfl⟩
  · rw [inetChecksum, inetSum_perm bs cs h, inetChecksum]

/-- Settles O10: a byte swap is a multiplication by 256 modulo 0xFFFF, which commutes with the sum. -/
theorem byteOrderLaw : Obligations.ByteOrderLaw := by
  unfold Obligations.ByteOrderLaw
  intro bs little littleChecksum big bigChecksum
  have hlittle : little = (swap16 big).toNat := fold_wordSum_wordsLittle bs
  have hcsum : littleChecksum = swap16 bigChecksum := by
    rw [show bigChecksum = ~~~big from complement_eq_not _ _ (inetSum_toNat bs), swap16_not]
    exact complement_eq_not _ _ hlittle.symm
  exact ⟨fold_le _, by rw [hlittle, BitVec.ofNat_toNat, BitVec.setWidth_eq], hcsum, hcsum ▸ lo8_swap16 _,
    hcsum ▸ hi8_swap16 _⟩

/-- Settles O11: the inserted word is the complement of the folded sum. -/
theorem verificationLaw : Obligations.VerificationLaw := by
  unfold Obligations.VerificationLaw
  intro front rest h zeroed c filled
  have hsum : inetSum filled = 0xFFFF := inetSum_insert_checksum front rest c h rfl
  refine ⟨hsum, by rw [inetChecksum, hsum], ?zeroedAgain, fun s hr hl hm => ?command⟩
  case zeroedAgain =>
    rw [set_field, inetChecksum_toNat, inetChecksum]
  case command =>
    refine ⟨_, exec_csum_of_holdsAt s filled hr hl hm, ?_⟩
    rw [hsum]
    exact ⟨rfl, rfl, rfl⟩

/-- Settles O12: the three cases of CSUM, each with its answer. -/
theorem csumCommand : Obligations.CsumCommand := by
  unfold Obligations.CsumCommand
  refine ⟨fun s => ⟨fun h => ?badRange, fun hr bs hl hm => ?sums, fun hr x hx => ?unwritten⟩, rfl, rfl, ?_, ?_⟩
  case badRange => exact ⟨_, exec_csum_of_lt s h, rfl, rfl, rfl, rfl, rfl, rfl, rfl, rfl⟩
  case sums => exact ⟨_, exec_csum_of_holdsAt s bs hr hl.symm hm, rfl, rfl, rfl, rfl, rfl, rfl, rfl, rfl⟩
  case unwritten => exact exec_csum_of_firstUnwritten s x hr hx
  · decide
  · decide

end Sys2Proof.Proofs

/-! SUPPORT. What a successful BUILD_ECHO leaves: the packet's bytes and the latched results
(spec/41_codec.md R122 to R124). -/

namespace Sys2Proof.Machine

/-! ### Bytes held in memory -/

theorem holdsAt_append_left (m : Memory) (a : Nat) (bs cs : List Byte) (h : holdsAt m a (bs ++ cs)) :
    holdsAt m a bs := by
  intro i hi
  rw [h i (by rw [List.length_append]; omega), List.getElem?_append_left hi]

theorem holdsAt_append_right (m : Memory) (a : Nat) (bs cs : List Byte) (h : holdsAt m a (bs ++ cs)) :
    holdsAt m (a + bs.length) cs := by
  intro i hi
  rw [Nat.add_assoc, h _ (by rw [List.length_append]; omega), List.getElem?_append_right (by omega),
    Nat.add_sub_cancel_left]

theorem writeBytes_holdsAt (m : Memory) (a : Nat) (bs : List Byte) : holdsAt (Memory.writeBytes m a bs) a bs := by
  intro i hi
  rw [Memory.read_writeBytes, if_pos (by omega), Nat.add_sub_cancel_left]

/-- Bytes held at one place of a memory are held at any place of another that has the same bytes. -/
theorem holdsAt_of_copy (m m' : Memory) (a a' : Nat) (bs : List Byte) (h : holdsAt m a bs)
    (hcopy : ∀ i, i < bs.length → Memory.read m' (a' + i) = Memory.read m (a + i)) : holdsAt m' a' bs :=
  fun i hi => (hcopy i hi).trans (h i hi)

/-! ### BUILD_ECHO -/

/-- The state a successful BUILD_ECHO of the payload `pl` leaves (R122). -/
def echoBuilt (s : State) (pl : List Byte) : State :=
  complete (latchPacket (packetLen s) s.ops.plLen.toNat
    (latchSum (packetSum s.ops.echoId s.ops.echoSeq pl)
      (memWrite s.ops.txAddr.toNat (echoPacket s.ops.echoId s.ops.echoSeq pl) s)))

/-- BUILD_ECHO leaves everything but MEM, the result registers and STATUS as it was. -/
theorem echoBuilt_frame (s : State) (pl : List Byte) :
    (echoBuilt s pl).cfg = s.cfg ∧ (echoBuilt s pl).ctrl = s.ctrl ∧ (echoBuilt s pl).ops = s.ops ∧
      (echoBuilt s pl).dec = s.dec ∧ (echoBuilt s pl).env = s.env := by
  simp [echoBuilt]

theorem exec_buildEcho_of_holdsAt (s : State) (pl : List Byte) (he : buildError s = none) (hl : pl.length = effLen s)
    (h : holdsAt s.mem s.ops.plAddr.toNat pl) : exec .buildEcho s = .next (echoBuilt s pl) := by
  simp only [exec, execBuildEcho, he, ← hl, memRead_of_holdsAt .buildEcho _ s pl h, echoBuilt]

/-- A BUILD_ECHO that raises no error has built the packet of the payload held at PL_ADDR. -/
theorem exec_buildEcho_success (s t : State) (h : exec .buildEcho s = .next t) (he : t.status.err = false) :
    ∃ pl, pl.length = effLen s ∧ holdsAt s.mem s.ops.plAddr.toNat pl ∧ t = echoBuilt s pl := by
  rcases execBuildEcho_next s t h with ⟨e, _, rfl⟩ | ⟨_, pl, hread, ht⟩
  · simp at he
  · obtain ⟨hl, hm⟩ := (memRead_ok _ _ _ _ _).1 hread
    exact ⟨pl, hl, fun i hi => hm i (hi.trans_eq hl), ht⟩

/-- The header with its checksum, then the payload, stand from TX_ADDR on. -/
theorem echoBuilt_holdsAt (s : State) (pl : List Byte) :
    holdsAt (echoBuilt s pl).mem s.ops.txAddr.toNat (echoPacket s.ops.echoId s.ops.echoSeq pl) :=
  writeBytes_holdsAt s.mem _ _

/-- A read after a BUILD_ECHO: a byte of the packet, or as before outside it. -/
theorem echoBuilt_read (s : State) (pl : List Byte) (x : Nat) :
    Memory.read (echoBuilt s pl).mem x =
      if s.ops.txAddr.toNat ≤ x ∧ x < s.ops.txAddr.toNat + (8 + pl.length) then
        (echoPacket s.ops.echoId s.ops.echoSeq pl)[x - s.ops.txAddr.toNat]?
      else Memory.read s.mem x := by
  rw [← echoPacket_length s.ops.echoId s.ops.echoSeq pl]
  exact Memory.read_writeBytes s.mem _ x _

theorem echoBuilt_txLen_toNat (s : State) (pl : List Byte) : (echoBuilt s pl).res.txLen.toNat = 8 + effLen s := by
  have hlen : 8 + effLen s < 2 ^ 32 := by rw [effLen_eq]; omega
  exact (BitVec.toNat_ofNat _ _).trans (Nat.mod_eq_of_lt hlen)

/-- Bytes 4 and 5 of the packet are the identifier, high byte first (R122, R126). -/
theorem echoBuilt_read_id (s : State) (pl : List Byte) :
    Memory.read (echoBuilt s pl).mem (s.ops.txAddr.toNat + 4) = some (hi8 s.ops.echoId) ∧
      Memory.read (echoBuilt s pl).mem (s.ops.txAddr.toNat + 5) = some (lo8 s.ops.echoId) := by
  have hlen := echoPacket_length s.ops.echoId s.ops.echoSeq pl
  exact ⟨echoBuilt_holdsAt s pl 4 (by omega), echoBuilt_holdsAt s pl 5 (by omega)⟩

/-- A 16-bit value is its two bytes. -/
theorem eq_of_hi8_lo8 (v w : Half) (hhi : hi8 v = hi8 w) (hlo : lo8 v = lo8 w) : v = w := by
  rw [← be16_hi8_lo8 v, hhi, hlo, be16_hi8_lo8]

end Sys2Proof.Machine

/-! SUPPORT. What a DECODE without an error latches, and the bytes its answer depends on (spec/41_codec.md R130 to
R137). -/

namespace Sys2Proof.Machine

/-! ### The latched fields -/

theorem exec_decode_of_holdsAt (s : State) (b0 : Byte) (hd : List Byte)
    (hr : s.ops.rxAddr.toNat + s.ops.rxLen.toNat ≤ s.cfg.memSize)
    (h0 : Memory.read s.mem s.ops.rxAddr.toNat = some b0) (h5 : 5 ≤ b0.toNat % 16)
    (hn : b0.toNat % 16 * 4 + 8 ≤ s.ops.rxLen.toNat) (hl : hd.length = 8)
    (hm : holdsAt s.mem (s.ops.rxAddr.toNat + b0.toNat % 16 * 4) hd) :
    exec .decode s =
      .next (complete (latchDecoded s.ops.rxAddr.toNat s.ops.rxLen.toNat (b0.toNat % 16 * 4) hd s)) := by
  have herr : decodeError s = none := by
    refine (decodeError_none s).2 ⟨(datagramError_none s).2 ⟨hr, by omega⟩, fun b hb => ?_⟩
    obtain rfl : b0 = b := Option.some.inj (h0.symm.trans hb)
    exact (headerError_none _ _).2 ⟨by rw [ihlWords_toNat]; exact h5, by rw [ihlBytes_toNat]; exact hn⟩
  have hfirst : memRead .decode s.ops.rxAddr.toNat 1 s = .ok [b0] :=
    memRead_of_holdsAt .decode _ s [b0] fun i hi => by
      obtain rfl : i = 0 := by simpa using hi
      exact h0
  have hheader : memRead .decode (s.ops.rxAddr.toNat + b0.toNat % 16 * 4) icmpHdrLen s = .ok hd :=
    (memRead_ok _ _ _ _ _).2 ⟨hl, fun i hi => hm i (hi.trans_eq hl.symm)⟩
  have hihl : ihlBytes (headerByte [b0] 0) = b0.toNat % 16 * 4 := ihlBytes_toNat b0
  simp only [exec, execDecode, herr, hfirst, hihl, hheader]

/-- A payload that lies in a MEM of legal size has an exact DEC_PL_ADDR (R135). -/
theorem latchDecoded_plAddr_toNat (s : State) (r n ihl : Nat) (hd : List Byte) (hwf : s.cfg.wf)
    (h : r + ihl + 8 ≤ s.cfg.memSize) : (latchDecoded r n ihl hd s).dec.plAddr.toNat = r + ihl + 8 := by
  obtain ⟨_, hmax⟩ := hwf
  have hfits : r + ihl + 8 < 2 ^ 32 := by omega
  exact (BitVec.toNat_ofNat _ _).trans (Nat.mod_eq_of_lt hfits)

theorem latchDecoded_plLen_toNat (s : State) (r n ihl : Nat) (hd : List Byte) (h : n < 2 ^ 32) :
    (latchDecoded r n ihl hd s).dec.plLen.toNat = n - ihl - 8 :=
  (BitVec.toNat_ofNat _ _).trans (Nat.mod_eq_of_lt (show n - ihl - 8 < 2 ^ 32 by omega))

theorem matchFlag_eq_decide (type : Byte) (id echoId : Half) :
    matchFlag type id echoId = decide (type = 0#8 ∧ id = echoId) :=
  Bool.eq_iff_iff.2 ((matchFlag_iff type id echoId).trans decide_eq_true_iff.symm)

theorem headerHalf_echoHeader (c id sq : Half) :
    headerHalf (echoHeader c id sq) 2 = c ∧ headerHalf (echoHeader c id sq) 4 = id ∧
      headerHalf (echoHeader c id sq) 6 = sq :=
  ⟨be16_hi8_lo8 c, be16_hi8_lo8 id, be16_hi8_lo8 sq⟩

/-- An Echo Request never matches, since its type is 8 (R127). -/
theorem matchFlag_echoHeader (c id sq i e : Half) : matchFlag (headerByte (echoHeader c id sq) 0) i e = false := rfl

/-! ### The bytes it reads -/

/-- MemRead depends on the bytes of its own range alone. -/
theorem memRead_congr (cmd : Instr) (a n : Nat) (s u : State)
    (h : ∀ i, i < n → Memory.read u.mem (a + i) = Memory.read s.mem (a + i)) :
    memRead cmd a n u = memRead cmd a n s := by
  have hbytes : Memory.readBytes u.mem a n = Memory.readBytes s.mem a n := by
    induction n generalizing a with
    | zero => rfl
    | succ n ih =>
      have htail : Memory.readBytes u.mem (a + 1) n = Memory.readBytes s.mem (a + 1) n :=
        ih (a + 1) fun i hi => by
          rw [Nat.add_assoc, Nat.add_comm 1]
          exact h (i + 1) (by omega)
      rw [Memory.readBytes, Memory.readBytes, htail, ← Nat.add_zero a, h 0 (by omega)]
  rw [memRead, hbytes, memRead]

/-- DECODE stops in one of its two reads. -/
theorem execDecode_fault (s : State) (f : Fault) (h : execDecode s = .fault f) :
    decodeError s = none ∧ (memRead .decode s.ops.rxAddr.toNat 1 s = .error f ∨
      ∃ first, memRead .decode s.ops.rxAddr.toNat 1 s = .ok first ∧
        memRead .decode (s.ops.rxAddr.toNat + ihlBytes (headerByte first 0)) icmpHdrLen s = .error f) := by
  unfold execDecode at h
  split at h
  · cases h
  · rename_i he
    split at h
    · rename_i g hg
      cases h; exact ⟨he, .inl hg⟩
    · rename_i first hf
      split at h
      · rename_i g hg
        cases h; exact ⟨he, .inr ⟨first, hf, hg⟩⟩
      · cases h

/-- Once the tests have passed, the byte DECODE has read is the first one, and it passes the IHL check. -/
theorem first_of_decodeError_none (s : State) (first : List Byte) (he : decodeError s = none)
    (hf : memRead .decode s.ops.rxAddr.toNat 1 s = .ok first) :
    ∃ b0, Memory.read s.mem s.ops.rxAddr.toNat = some b0 ∧ 5 ≤ b0.toNat % 16 ∧
      ihlBytes (headerByte first 0) = b0.toNat % 16 * 4 := by
  obtain ⟨hl, hbyte⟩ := (memRead_ok _ _ _ _ _).1 hf
  obtain ⟨b0, rfl⟩ := List.length_eq_one_iff.1 hl
  have h0 : Memory.read s.mem s.ops.rxAddr.toNat = some b0 := hbyte 0 (by omega)
  obtain ⟨h5, _⟩ := (headerError_none _ _).1 (((decodeError_none s).1 he).2 b0 h0)
  rw [ihlWords_toNat] at h5
  exact ⟨b0, h0, h5, ihlBytes_toNat b0⟩

section DecodeFootprint

/-! `m` agrees with the memory of `s` on the first byte and, behind a first byte that passes the IHL check, on the
header (R131). -/

variable (s : State) (m : Memory)
  (hfirst : Memory.read m s.ops.rxAddr.toNat = Memory.read s.mem s.ops.rxAddr.toNat)
  (hheader : ∀ b0, Memory.read s.mem s.ops.rxAddr.toNat = some b0 → 5 ≤ b0.toNat % 16 → ∀ i, i < 8 →
    Memory.read m (s.ops.rxAddr.toNat + b0.toNat % 16 * 4 + i) =
      Memory.read s.mem (s.ops.rxAddr.toNat + b0.toNat % 16 * 4 + i))

include hheader in
theorem memRead_header_withMem (first : List Byte) (he : decodeError s = none)
    (hf : memRead .decode s.ops.rxAddr.toNat 1 s = .ok first) :
    memRead .decode (s.ops.rxAddr.toNat + ihlBytes (headerByte first 0)) icmpHdrLen { s with mem := m } =
      memRead .decode (s.ops.rxAddr.toNat + ihlBytes (headerByte first 0)) icmpHdrLen s := by
  obtain ⟨b0, h0, h5, hihl⟩ := first_of_decodeError_none s first he hf
  rw [hihl]
  exact memRead_congr .decode _ _ s { s with mem := m } (hheader b0 h0 h5)

include hfirst

theorem decodeError_withMem : decodeError { s with mem := m } = decodeError s := by
  have hdatagram : datagramError { s with mem := m } = datagramError s := rfl
  simp only [decodeError, hdatagram, hfirst]

theorem memRead_first_withMem :
    memRead .decode s.ops.rxAddr.toNat 1 { s with mem := m } = memRead .decode s.ops.rxAddr.toNat 1 s :=
  memRead_congr .decode _ 1 s { s with mem := m } fun i hi => by
    obtain rfl : i = 0 := by omega
    exact hfirst

include hheader

theorem execDecode_withMem_next (t : State) (h : execDecode s = .next t) :
    execDecode { s with mem := m } = .next { t with mem := m } := by
  have herr := decodeError_withMem s m hfirst
  have hread := memRead_first_withMem s m hfirst
  rcases execDecode_next s t h with ⟨e, he, rfl⟩ | ⟨he, first, hd, hf, hh, rfl⟩
  · simp only [execDecode, herr.trans he]
    rfl
  · simp only [execDecode, herr.trans he, hread.trans hf, (memRead_header_withMem s m hheader first he hf).trans hh]
    rfl

theorem execDecode_withMem_fault (f : Fault) (h : execDecode s = .fault f) :
    execDecode { s with mem := m } = .fault f := by
  have herr := decodeError_withMem s m hfirst
  have hread := memRead_first_withMem s m hfirst
  rcases execDecode_fault s f h with ⟨he, hf | ⟨first, hf, hh⟩⟩
  · simp only [execDecode, herr.trans he, hread.trans hf]
  · simp only [execDecode, herr.trans he, hread.trans hf, (memRead_header_withMem s m hheader first he hf).trans hh]

end DecodeFootprint

theorem inReadFootprint_eq_readRange (s : State) (i : Instr) (x : Nat) (hf : fetch s = .ok i)
    (he : commandError i s = none) : inReadFootprint s x = readRange i s x := by
  simp only [inReadFootprint, hf, he, Option.isNone_none, Bool.true_and]

end Sys2Proof.Machine

/-! CERTIFICATE. The statements about BUILD_ECHO and DECODE (spec/41_codec.md), settled. -/

namespace Sys2Proof.Proofs

open Sys2Proof Sys2Proof.Machine

/-- Settles O13: the packet is one write of the header and the payload, and the rest is latched beside it. -/
theorem buildEchoBuilds : Obligations.BuildEchoBuilds := by
  unfold Obligations.BuildEchoBuilds
  intro s pl n e p tx id sq sum c htrunc hp htx hover hl hm
  have herr : buildError s = none := (buildError_none s).2 ⟨htrunc, hp, htx, decide_eq_false hover⟩
  refine ⟨_, exec_buildEcho_of_holdsAt s pl herr hl hm, fun x => ?bytes, ?results, ?flags,
    echoBuilt_frame s pl⟩
  case results => rfl
  case flags => rfl
  case bytes =>
    rw [← hl]
    exact echoBuilt_read s pl x

/-- Settles O16: bytes 4 and 5 are the two bytes of the identifier. -/
theorem identifierLaw : Obligations.IdentifierLaw := by
  unfold Obligations.IdentifierLaw
  rintro s u t v hid hs hu hts hvu ⟨h4, h5⟩
  obtain ⟨pl, _, _, rfl⟩ := exec_buildEcho_success s t hs hts
  obtain ⟨ql, _, _, rfl⟩ := exec_buildEcho_success u v hu hvu
  obtain ⟨hs4, hs5⟩ := echoBuilt_read_id s pl
  obtain ⟨hu4, hu5⟩ := echoBuilt_read_id u ql
  rw [hs4, hu4] at h4
  rw [hs5, hu5] at h5
  exact hid (eq_of_hi8_lo8 _ _ (Option.some.inj h4) (Option.some.inj h5))

/-- Settles O18: the latched fields are the header's bytes, and the payload's place and length fit their registers. -/
theorem decodeDecodes : Obligations.DecodeDecodes := by
  unfold Obligations.DecodeDecodes
  intro s b0 h0 h1 h2 h3 h4 h5 h6 h7 r n ihl hwf hr hb hmin hn hm
  have hihl : ihl % 2 ^ 6 = ihl := Nat.mod_eq_of_lt (by omega)
  refine ⟨_, exec_decode_of_holdsAt s b0 _ hr hb hmin hn rfl hm, rfl, rfl, be16_toNat h2 h3, be16_toNat h4 h5,
    be16_toNat h6 h7, (BitVec.toNat_ofNat _ _).trans hihl, latchDecoded_plAddr_toNat s r n ihl _ hwf (by omega),
    latchDecoded_plLen_toNat s r n ihl _ s.ops.rxLen.isLt, ?_, rfl, rfl, rfl, rfl, rfl, rfl⟩
  rw [complete_status, latchDecoded_status, matchFlag_eq_decide]
  rfl

/-- Settles O21: the tests read the first byte alone, and the header is read only behind a first byte that passes
them. -/
theorem decodeReadsNineBytes : Obligations.DecodeReadsNineBytes := by
  unfold Obligations.DecodeReadsNineBytes
  refine ⟨fun s m hfirst hheader => ?_, fun s x hf he => ?_⟩
  · exact ⟨execDecode_withMem_next s m hfirst hheader, execDecode_withMem_fault s m hfirst hheader⟩
  · rw [inReadFootprint_eq_readRange s .decode x hf he]
    exact within_iff _ _ _

/-- Settles O22: the copied packet is a header that DECODE reads back field by field, and then the payload. -/
theorem roundTrip : Obligations.RoundTrip := by
  unfold Obligations.RoundTrip
  rintro s t u k b0 hs hts hmax h5 _ hwf hb rfl hlen hr hcopy
  obtain ⟨pl, hl, hpl, rfl⟩ := exec_buildEcho_success s t hs hts
  have hpll : pl.length = s.ops.plLen.toNat := by rw [hl, effLen_eq]; omega
  rw [echoBuilt_txLen_toNat, ← hl, Nat.mul_comm] at hlen hcopy
  have hpacket : holdsAt u.mem (u.ops.rxAddr.toNat + b0.toNat % 16 * 4) (echoPacket s.ops.echoId s.ops.echoSeq pl) :=
    holdsAt_of_copy _ _ _ _ _ (echoBuilt_holdsAt s pl) (by rw [echoPacket_length]; exact hcopy)
  have hheader := holdsAt_append_left _ _ _ _ hpacket
  have hpayload := holdsAt_append_right _ _ _ _ hpacket
  obtain ⟨hcsum, hid, hseq⟩ := headerHalf_echoHeader (echoBuilt s pl).res.csResult s.ops.echoId s.ops.echoSeq
  refine ⟨_, exec_decode_of_holdsAt u b0 _ hr hb h5 (by omega) (echoHeader_length _ _ _) hheader, rfl, rfl, rfl, rfl,
    hid, hseq, hcsum, ?plLen, fun i hi => ?payload, ?noMatch⟩
  case plLen =>
    apply BitVec.eq_of_toNat_eq
    rw [complete_dec, latchDecoded_plLen_toNat u _ _ _ _ u.ops.rxLen.isLt]
    omega
  case noMatch => simp only [complete_status, latchDecoded_status, matchFlag_echoHeader]
  case payload =>
    rw [complete_dec, latchDecoded_plAddr_toNat u _ _ _ _ hwf (by omega)]
    exact (hpayload i (by omega)).trans (hpl i (by omega)).symm

end Sys2Proof.Proofs

/-! SUPPORT. Which error a command raises, and the two ways it can complete (spec/60_exceptions.md R160 to R172). -/

namespace Sys2Proof.Machine

/-! ### The two completions of a command -/

/-- The state in which the command `i` raises its error: only DECODE has flags to clear first (R167). -/
def errorBase : Instr → State → State
  | .csum, s => s
  | .buildEcho, s => s
  | .decode, s => clearDecoded s

@[simp] theorem errorBase_csum (s : State) : errorBase .csum s = s := rfl
@[simp] theorem errorBase_buildEcho (s : State) : errorBase .buildEcho s = s := rfl
@[simp] theorem errorBase_decode (s : State) : errorBase .decode s = clearDecoded s := rfl
@[simp] theorem errorBase_ctrl (i : Instr) (s : State) : (errorBase i s).ctrl = s.ctrl := by cases i <;> rfl
@[simp] theorem errorBase_ovr (i : Instr) (s : State) : (errorBase i s).status.ovr = s.status.ovr := by cases i <;> rfl

theorem errorBase_sameButStatus (i : Instr) (s : State) : sameButStatus s (errorBase i s) := by
  cases i <;> exact ⟨rfl, rfl, rfl, rfl, rfl, rfl, rfl⟩

theorem raiseError_sameButStatus (e : CmdError) (s : State) : sameButStatus s (raiseError e s) :=
  ⟨rfl, rfl, rfl, rfl, rfl, rfl, rfl⟩

theorem raiseError_status_eq_failedStatus (e : CmdError) (s : State) :
    (raiseError e s).status = failedStatus (errorCode e) s.status := rfl

/-- A command whose tests fail completes with its first error, and with nothing else done. -/
theorem exec_of_commandError (i : Instr) (s : State) (e : CmdError) (h : commandError i s = some e) :
    exec i s = .next (raiseError e (errorBase i s)) := by
  cases i with
  | csum =>
    have he : csumError s = some e := h
    simp only [exec, execCsum, he, errorBase_csum]
  | buildEcho =>
    have he : buildError s = some e := h
    simp only [exec, execBuildEcho, he, errorBase_buildEcho]
  | decode =>
    have he : decodeError s = some e := h
    simp only [exec, execDecode, he, errorBase_decode, decodeFail]

/-- A command whose tests pass, if it completes, completes without an error, and has touched neither CTRL nor OVR. -/
theorem exec_next_of_no_commandError (i : Instr) (s t : State) (hn : commandError i s = none)
    (h : exec i s = .next t) :
    ∃ u, t = complete u ∧ u.ctrl = s.ctrl ∧ u.status.ovr = s.status.ovr := by
  cases i with
  | csum =>
    rcases execCsum_next s t h with ⟨e, he, _⟩ | ⟨_, bs, _, rfl⟩
    · exact absurd (hn.symm.trans he) nofun
    · exact ⟨_, rfl, rfl, rfl⟩
  | buildEcho =>
    rcases execBuildEcho_next s t h with ⟨e, he, _⟩ | ⟨_, pl, _, rfl⟩
    · exact absurd (hn.symm.trans he) nofun
    · exact ⟨_, rfl, rfl, rfl⟩
  | decode =>
    rcases execDecode_next s t h with ⟨e, he, _⟩ | ⟨_, first, hd, _, _, rfl⟩
    · exact absurd (hn.symm.trans he) nofun
    · exact ⟨_, rfl, rfl, rfl⟩

/-- A command completes with the error its tests find, or without one where they find none. -/
theorem exec_next (i : Instr) (s t : State) (h : exec i s = .next t) :
    (∃ e, commandError i s = some e ∧ t = raiseError e (errorBase i s)) ∨
      (commandError i s = none ∧ ∃ u, t = complete u ∧ u.ctrl = s.ctrl ∧ u.status.ovr = s.status.ovr) := by
  cases hc : commandError i s with
  | none => exact .inr ⟨rfl, exec_next_of_no_commandError i s t hc h⟩
  | some e =>
    rw [exec_of_commandError i s e hc] at h
    exact .inl ⟨e, rfl, (Host.Outcome.next.inj h).symm⟩

theorem failsWith_of_buildError (s : State) (e : CmdError) (h : buildError s = some e) :
    failsWith .buildEcho s (errorCode e) :=
  ⟨raiseError e s, exec_of_commandError .buildEcho s e h, raiseError_status_eq_failedStatus e s,
    raiseError_sameButStatus e s⟩

theorem decodeFailsWith_of_decodeError (s : State) (e : CmdError) (h : decodeError s = some e) :
    decodeFailsWith s (errorCode e) :=
  ⟨raiseError e (clearDecoded s), exec_of_commandError .decode s e h, raiseError_status_eq_failedStatus e _,
    ⟨rfl, rfl, rfl, rfl, rfl, rfl, rfl⟩⟩

/-! ### ILLEGAL_CMD is no command's error (R162) -/

theorem errorCode_eq_one_iff (e : CmdError) : errorCode e = 1#4 ↔ e = .illegalCmd := by cases e <;> decide

theorem headerError_ne_illegalCmd (b0 : Byte) (n : Nat) : headerError b0 n ≠ some .illegalCmd := by
  unfold headerError
  split_ifs <;> decide

theorem datagramError_ne_illegalCmd (s : State) : datagramError s ≠ some .illegalCmd := by
  unfold datagramError
  split_ifs <;> decide

theorem commandError_ne_illegalCmd (i : Instr) (s : State) : commandError i s ≠ some .illegalCmd := by
  cases i with
  | csum =>
    show csumError s ≠ _
    unfold csumError
    split_ifs <;> decide
  | buildEcho =>
    show buildError s ≠ _
    unfold buildError
    split_ifs <;> decide
  | decode =>
    show decodeError s ≠ _
    unfold decodeError
    split
    next e hd => exact hd ▸ datagramError_ne_illegalCmd s
    next =>
      split
      next => exact nofun
      next b0 _ => exact headerError_ne_illegalCmd b0 _

/-! ### The first failing test of BUILD_ECHO (R170) -/

theorem inRange_eq_false_iff (c : Config) (a n : Nat) : inRange c a n = false ↔ c.memSize < a + n := by
  rw [← Bool.not_eq_true, inRange_iff, not_le]

theorem buildError_of_tooLong (s : State) (h : s.ctrl.truncFail = true ∧ 1024 < s.ops.plLen.toNat) :
    buildError s = some .payloadTooLong := by
  obtain ⟨htf, hlong⟩ := h
  rw [buildError, htf, decide_eq_true hlong]
  rfl

section BuildTests

variable (s : State) (hshort : ¬(s.ctrl.truncFail = true ∧ 1024 < s.ops.plLen.toNat))
include hshort

/-- Past the test on the payload's length, the tests on the two ranges and on their overlap are left. -/
theorem buildError_past_length :
    buildError s =
      if !inRange s.cfg s.ops.plAddr.toNat (effLen s) then some .badRange
      else if !inRange s.cfg s.ops.txAddr.toNat (packetLen s) then some .badRange
      else if overlaps s.ops.plAddr.toNat (effLen s) s.ops.txAddr.toNat then some .overlap
      else none :=
  if_neg (by rwa [Bool.and_eq_true, decide_eq_true_iff])

theorem buildError_of_badSource (h : s.cfg.memSize < s.ops.plAddr.toNat + effLen s) :
    buildError s = some .badRange := by
  rw [buildError_past_length s hshort, (inRange_eq_false_iff _ _ _).2 h]
  rfl

variable (hsource : s.ops.plAddr.toNat + effLen s ≤ s.cfg.memSize)
include hsource

theorem buildError_of_badDestination (h : s.cfg.memSize < s.ops.txAddr.toNat + packetLen s) :
    buildError s = some .badRange := by
  rw [buildError_past_length s hshort, (inRange_iff _ _ _).2 hsource, (inRange_eq_false_iff _ _ _).2 h]
  rfl

theorem buildError_of_overlap (hdest : s.ops.txAddr.toNat + packetLen s ≤ s.cfg.memSize)
    (h : overlaps s.ops.plAddr.toNat (effLen s) s.ops.txAddr.toNat = true) : buildError s = some .overlap := by
  rw [buildError_past_length s hshort, (inRange_iff _ _ _).2 hsource, (inRange_iff _ _ _).2 hdest, h]
  rfl

end BuildTests

/-! ### The first failing test of DECODE (R171) -/

theorem decodeError_of_datagramError (s : State) (e : CmdError) (h : datagramError s = some e) :
    decodeError s = some e := by
  simp only [decodeError, h]

theorem decodeError_of_headerError (s : State) (b0 : Byte) (e : CmdError) (hd : datagramError s = none)
    (h0 : Memory.read s.mem s.ops.rxAddr.toNat = some b0) (h : headerError b0 s.ops.rxLen.toNat = some e) :
    decodeError s = some e := by
  simp only [decodeError, hd, h0, h]

theorem datagramError_of_badRange (s : State) (h : s.cfg.memSize < s.ops.rxAddr.toNat + s.ops.rxLen.toNat) :
    datagramError s = some .badRange := by
  rw [datagramError, (inRange_eq_false_iff _ _ _).2 h]
  rfl

theorem datagramError_of_empty (s : State) (hr : s.ops.rxAddr.toNat + s.ops.rxLen.toNat ≤ s.cfg.memSize)
    (h : s.ops.rxLen.toNat = 0) : datagramError s = some .shortDgram := by
  rw [datagramError, (inRange_iff _ _ _).2 hr, h]
  rfl

theorem headerError_of_badIhl (b0 : Byte) (n : Nat) (h : b0.toNat % 16 < 5) : headerError b0 n = some .badIhl :=
  if_pos (by rwa [ihlWords_toNat])

theorem headerError_of_short (b0 : Byte) (n : Nat) (h5 : 5 ≤ b0.toNat % 16) (h : n < b0.toNat % 16 * 4 + 8) :
    headerError b0 n = some .shortDgram := by
  rw [headerError, ihlWords_toNat, ihlBytes_toNat, if_neg (not_lt.2 h5), if_pos h]

/-! ### ENGINE's step (R81, R162) -/

theorem step_engine (s : State) (ha : nextAgent s = .engine) : step s = engineMove (takeTurn s) := by
  simp only [step, ha]

/-- ENGINE performs the command whose word is pending. -/
theorem engineMove_encode (s : State) (i : Instr) (hb : s.status.busy = true) (hp : s.pend = encode i) :
    engineMove s = exec i s := by
  simp only [engineMove, hb, if_true, fetch, hp, decode_encode]

/-- No command completes with ILLEGAL_CMD. -/
theorem exec_errcode_ne_illegalCmd (i : Instr) (s t : State) (h : exec i s = .next t) : t.status.errcode ≠ 1#4 := by
  rcases exec_next i s t h with ⟨e, he, rfl⟩ | ⟨_, u, rfl, _, _⟩
  · intro hcode
    obtain rfl : e = .illegalCmd := (errorCode_eq_one_iff e).1 hcode
    exact commandError_ne_illegalCmd i s he
  · have hcode : (complete u).status.errcode = 0#4 := rfl
    rw [hcode]
    decide

end Sys2Proof.Machine

/-! CERTIFICATE. The statements about errors and completions (spec/60_exceptions.md), settled. -/

namespace Sys2Proof.Proofs

open Sys2Proof Sys2Proof.Machine

/-- Settles O3: an illegal word's completion raises the one error that no command's tests can find. -/
theorem illegalWordCompletes : Obligations.IllegalWordCompletes := by
  unfold Obligations.IllegalWordCompletes
  intro s hb ha
  rw [step_engine s ha]
  have hb' : (takeTurn s).status.busy = true := by rwa [takeTurn_status]
  refine ⟨fun hillegal => ?illegal, fun hlegal t h => ?legal⟩
  case illegal =>
    have hp : ¬legalWord (takeTurn s).pend := by rwa [takeTurn_pend]
    refine ⟨performIllegal (takeTurn s), engineMove_illegal _ hb' hp, ?_, raiseError_sameButStatus _ _⟩
    rw [performIllegal, raiseError_status_eq_failedStatus, takeTurn_status]
    rfl
  case legal =>
    obtain ⟨i, hi⟩ := exists_encode_of_legalWord s.pend hlegal
    rw [engineMove_encode _ i hb' ((takeTurn_pend s).trans hi)] at h
    exact exec_errcode_ne_illegalCmd i _ t h

/-- Settles O14: each clause names the first failing test. -/
theorem buildEchoErrorsInOrder : Obligations.BuildEchoErrorsInOrder := by
  unfold Obligations.BuildEchoErrorsInOrder
  intro s n e p tx
  refine ⟨fun hlong => ?tooLong, fun hshort => ⟨fun hbad => ?source, fun hsrc => ⟨fun hbad => ?destination,
    fun hdest hover => ?overlap⟩⟩⟩
  case tooLong => exact failsWith_of_buildError s .payloadTooLong (buildError_of_tooLong s hlong)
  case source => exact failsWith_of_buildError s .badRange (buildError_of_badSource s hshort hbad)
  case destination => exact failsWith_of_buildError s .badRange (buildError_of_badDestination s hshort hsrc hbad)
  case overlap =>
    exact failsWith_of_buildError s .overlap
      (buildError_of_overlap s hshort hsrc hdest ((overlaps_iff _ _ _).2 hover))

/-- Settles O19: each clause names the first failing test, and the first byte counts only behind the range tests. -/
theorem decodeErrorsInOrder : Obligations.DecodeErrorsInOrder := by
  unfold Obligations.DecodeErrorsInOrder
  intro s r n
  have hdatagram (e : CmdError) (h : datagramError s = some e) : decodeFailsWith s (errorCode e) :=
    decodeFailsWith_of_decodeError s e (decodeError_of_datagramError s e h)
  refine ⟨fun hbad => hdatagram .badRange (datagramError_of_badRange s hbad), fun hr =>
    ⟨fun hempty => hdatagram .shortDgram (datagramError_of_empty s hr hempty), fun hne b0 h0 => ?header⟩⟩
  have hheader (e : CmdError) (h : headerError b0 n = some e) : decodeFailsWith s (errorCode e) :=
    decodeFailsWith_of_decodeError s e (decodeError_of_headerError s b0 e ((datagramError_none s).2 ⟨hr, hne⟩) h0 h)
  exact ⟨fun hihl => hheader .badIhl (headerError_of_badIhl b0 n hihl),
    fun h5 hshort => hheader .shortDgram (headerError_of_short b0 n h5 hshort)⟩

/-- Settles O23: both completions set the same fields, and the error says which of the two it is. -/
theorem completionActions : Obligations.CompletionActions := by
  unfold Obligations.CompletionActions
  refine ⟨fun i s t h => ?_, fun s => ⟨rfl, fun hie => (irq_iff _).2 ⟨hie, rfl⟩⟩⟩
  rcases exec_next i s t h with ⟨e, he, rfl⟩ | ⟨hn, u, rfl, hctrl, hovr⟩
  · refine ⟨rfl, rfl, errorBase_ovr i s, fun e' he' => ?_, fun hn => ?_, fun hie => (irq_iff _).2 ⟨?_, rfl⟩⟩
    · obtain rfl : e = e' := Option.some.inj (he.symm.trans he')
      exact ⟨rfl, rfl⟩
    · exact absurd (hn.symm.trans he) nofun
    · rwa [raiseError_ctrl, errorBase_ctrl]
  · refine ⟨rfl, rfl, hovr, fun e he => ?_, fun _ => ⟨rfl, rfl⟩, fun hie => (irq_iff _).2 ⟨?_, rfl⟩⟩
    · exact absurd (hn.symm.trans he) nofun
    · rwa [complete_ctrl, hctrl]

/-- Settles O24: a completion with ERR = 1 is a raised error, whose base state differs from `s` in DECODE's flags
alone. -/
theorem errorsArePrecise : Obligations.ErrorsArePrecise := by
  unfold Obligations.ErrorsArePrecise
  intro i s t h herr
  rcases exec_next i s t h with ⟨e, _, rfl⟩ | ⟨_, u, rfl, _, _⟩
  · exact ⟨errorBase_sameButStatus i s, by cases i <;> rfl⟩
  · rw [complete_status] at herr
    cases herr

end Sys2Proof.Proofs

/-! SUPPORT. What every register reads as at reset (spec/10_state.md R22), and where the footprints of the pending
command lie (spec/70_reset_and_hazards.md R196). -/

namespace Sys2Proof.Machine

/-- Each register's reset value; ECHO_SEQ is the one that is not 0 (R22). -/
theorem regRead_reset (r : RegName) :
    regRead r State.reset = if r = .echoSeq then 0x00000001#32 else 0x00000000#32 := by
  cases r with
  | echoSeq => rfl
  | _ => rfl

/-- A word that selects no command touches no byte of MEM. -/
theorem footprints_empty_of_not_legalWord (s : State) (x : Nat) (h : ¬legalWord s.pend) :
    inReadFootprint s x = false ∧ inWriteFootprint s x = false := by
  obtain ⟨r, hr⟩ := decode_error_of_not_legalWord s.pend h
  simp only [inReadFootprint, inWriteFootprint, fetch, hr, and_self]

/-- A command that will raise an error touches no byte of MEM. -/
theorem footprints_empty_of_commandError (s : State) (i : Instr) (x : Nat) (hf : fetch s = .ok i)
    (he : commandError i s ≠ none) : inReadFootprint s x = false ∧ inWriteFootprint s x = false := by
  have hsome : (commandError i s).isNone = false :=
    Option.isNone_eq_false_iff.2 (Option.isSome_iff_ne_none.2 he)
  simp only [inReadFootprint, inWriteFootprint, hf, hsome, Bool.false_and, and_self]

theorem inWriteFootprint_eq_writeRange (s : State) (i : Instr) (x : Nat) (hf : fetch s = .ok i)
    (he : commandError i s = none) : inWriteFootprint s x = writeRange i s x := by
  simp only [inWriteFootprint, hf, he, Option.isNone_none, Bool.true_and]

/-- BUILD_ECHO's destination is the header's eight bytes and the payload behind them (spec/41_codec.md R122). -/
theorem writeRange_buildEcho_iff (s : State) (x : Nat) :
    writeRange .buildEcho s x = true ↔
      s.ops.txAddr.toNat ≤ x ∧ x < s.ops.txAddr.toNat + 8 + min s.ops.plLen.toNat 1024 := by
  rw [writeRange, within_iff, packetLen_eq, Nat.add_assoc]

end Sys2Proof.Machine

/-! CERTIFICATE. The statements about reset and the hazards (spec/70_reset_and_hazards.md), settled. -/

namespace Sys2Proof.Proofs

open Sys2Proof Sys2Proof.Machine

/-- Settles O40: below 0x1000 BUSY = 1 drops every write but one to STATUS, and no read looks at BUSY. -/
theorem busyWritesDropped : Obligations.BusyWritesDropped := by
  unfold Obligations.BusyWritesDropped
  intro s off v hb hlt h4
  refine ⟨fun hne => ?dropped, fun h8 => ?status, readsAs_window s off hlt h4⟩
  case dropped =>
    refine ⟨setOvr (popProg s), ?_, rfl, rfl, rfl, rfl, rfl, rfl, rfl, rfl, rfl⟩
    rw [hostMove_write_window s off v hlt h4, windowWrite_busy off v (popProg s) hb hne]
  case status =>
    subst h8
    exact hostMove_writeReg_status s v

/-- Settles O48: the footprints are the command's ranges where the word is legal and no error is raised, else empty. -/
theorem footprints : Obligations.Footprints := by
  unfold Obligations.Footprints
  intro s x
  refine ⟨footprints_empty_of_not_legalWord s x, fun i hf =>
    ⟨footprints_empty_of_commandError s i x hf, fun hn => ?_⟩⟩
  rw [inReadFootprint_eq_readRange s i x hf hn, inWriteFootprint_eq_writeRange s i x hf hn]
  cases i with
  | csum => exact ⟨within_iff x _ _, rfl⟩
  | buildEcho => exact ⟨within_iff x _ _, writeRange_buildEcho_iff s x⟩
  | decode => exact ⟨within_iff x _ _, rfl⟩

/-- Settles O32: an assertion of `rst` leaves the memory of the reset state, in which no byte is written. -/
theorem resetState : Obligations.ResetState := by
  unfold Obligations.ResetState
  exact ⟨regRead_reset, rfl, rfl, rfl, Memory.read_nil,
    fun s => ⟨applyReset (popProg s), rfl, Memory.read_nil⟩⟩

end Sys2Proof.Proofs

/-! SUPPORT. What every update of the state keeps of the invariant, and so every command, HOST action and step
(spec/10_state.md R29 to R57, spec/20_memory.md R60). -/

namespace Sys2Proof.Machine

/-! ### Using up a turn -/

/-- Using up a turn touches the host side alone (log 4). -/
theorem takeTurn_eq_withEnv (s : State) : takeTurn s = { s with env := (takeTurn s).env } := by
  unfold takeTurn
  split <;> rfl

/-- The invariant says nothing of the host side. -/
theorem inv_withEnv (s : State) (e : HostSide) : ({ s with env := e } : State).Inv ↔ s.Inv := Iff.rfl

theorem takeTurn_inv (s : State) (h : s.Inv) : (takeTurn s).Inv := by
  rw [takeTurn_eq_withEnv]
  exact (inv_withEnv s _).2 h

/-! ### The updates of STATUS -/

theorem completedStatus_statusInv (t : Status) (h : statusInv t) : statusInv (completedStatus t) := by
  obtain ⟨_, _, _, _, hmatch⟩ := h
  exact ⟨fun _ => rfl, by simp [completedStatus], by simp [completedStatus], fun _ => rfl, hmatch⟩

theorem failedStatus_statusInv (e : CmdError) (t : Status) (h : statusInv t) :
    statusInv (failedStatus (errorCode e) t) := by
  obtain ⟨_, _, _, _, hmatch⟩ := h
  obtain ⟨hne, hle⟩ := errorCode_range e
  exact ⟨fun _ => rfl, ⟨fun _ => hne, fun _ => rfl⟩, hle, nofun, hmatch⟩

theorem complete_inv (s : State) (h : s.Inv) : (complete s).Inv := by
  obtain ⟨hcfg, hmem, hstatus, hres, hdec⟩ := h
  exact ⟨hcfg, hmem, completedStatus_statusInv s.status hstatus, hres, hdec⟩

theorem raiseError_inv (e : CmdError) (s : State) (h : s.Inv) : (raiseError e s).Inv := by
  obtain ⟨hcfg, hmem, hstatus, hres, hdec⟩ := h
  exact ⟨hcfg, hmem, failedStatus_statusInv e s.status hstatus, hres, hdec⟩

/-- Without DEC_VALID and MATCH the invariant asks nothing of the decode registers. -/
theorem clearDecoded_inv (s : State) (h : s.Inv) : (clearDecoded s).Inv := by
  obtain ⟨hcfg, hmem, ⟨hdone, herr, hcode, hbusy, _⟩, hres, _⟩ := h
  exact ⟨hcfg, hmem, ⟨hdone, herr, hcode, hbusy, nofun⟩, hres, nofun, nofun⟩

theorem issue_inv (w : Word) (s : State) (h : s.Inv) : (issue w s).Inv := by
  obtain ⟨hcfg, hmem, ⟨_, _, _, _, hmatch⟩, hres, hdec⟩ := h
  exact ⟨hcfg, hmem, ⟨nofun, by simp, by simp, fun _ => rfl, hmatch⟩, hres, hdec⟩

theorem statusWrite_inv (v : Word) (s : State) (h : s.Inv) : (statusWrite v s).Inv := by
  obtain ⟨hcfg, hmem, ⟨hdone, hrest⟩, hres, hdec⟩ := h
  have hdone' : (statusWrite v s).status.done = true → s.status.busy = false :=
    fun hd => hdone (Bool.and_eq_true_iff.1 hd).1
  exact ⟨hcfg, hmem, ⟨hdone', hrest⟩, hres, hdec⟩

/-- The invariant says nothing of OVR. -/
theorem setOvr_inv (s : State) (h : s.Inv) : (setOvr s).Inv := h

/-! ### The updates of memory and of the result registers -/

theorem memWrite_inv (a : Nat) (bs : List Byte) (s : State) (h : s.Inv) (hfit : a + bs.length ≤ s.cfg.memSize) :
    (memWrite a bs s).Inv := by
  obtain ⟨hcfg, ⟨hwf, hbound⟩, hrest⟩ := h
  exact ⟨hcfg, ⟨Memory.writeBytes_wf _ a bs hwf, Memory.writeBytes_bounded _ a _ bs hfit hbound⟩, hrest⟩

theorem latchSum_inv (x : Nat) (s : State) (h : s.Inv) (hx : x ≤ 0xFFFF) : (latchSum x s).Inv := by
  obtain ⟨hcfg, hmem, hstatus, ⟨_, _, htx⟩, hdec⟩ := h
  obtain ⟨_, hzero, _⟩ := latchSum_sumLatched x s hx
  have hnot : BitVec.ofNat 16 (0xFFFF - x) = ~~~BitVec.ofNat 16 x :=
    complement_eq_not x _ (Nat.mod_eq_of_lt (Nat.lt_succ_of_le hx))
  exact ⟨hcfg, hmem, hstatus, ⟨hzero, .inl hnot, htx⟩, hdec⟩

theorem latchPacket_inv (len n : Nat) (s : State) (h : s.Inv) (hlo : 8 ≤ len) (hhi : len ≤ 1032) :
    (latchPacket len n s).Inv := by
  obtain ⟨hcfg, hmem, hstatus, ⟨hzero, hcomp, _⟩, hdec⟩ := h
  have hlen : (latchPacket len n s).res.txLen.toNat = len :=
    (BitVec.toNat_ofNat len 32).trans (Nat.mod_eq_of_lt (by omega))
  exact ⟨hcfg, hmem, hstatus, ⟨hzero, hcomp, .inr (hlen.symm ▸ ⟨hlo, hhi⟩)⟩, hdec⟩

/-- A datagram in MEM with a legal header length has its payload in MEM, and the registers hold it exactly. -/
theorem latchDecoded_inv (r n k : Nat) (hd : List Byte) (s : State) (h : s.Inv) (h5 : 5 ≤ k) (h15 : k ≤ 15)
    (hn : k * 4 + 8 ≤ n) (hr : r + n ≤ s.cfg.memSize) : (latchDecoded r n (k * 4) hd s).Inv := by
  obtain ⟨hcfg, hmem, ⟨hdone, herr, hcode, hbusy, _⟩, hres, _⟩ := h
  have hmax : s.cfg.memSize ≤ 131072 := hcfg.2
  have hihl : (latchDecoded r n (k * 4) hd s).dec.ihl.toNat = k * 4 :=
    (BitVec.toNat_ofNat (k * 4) 6).trans (Nat.mod_eq_of_lt (by omega))
  have haddr := latchDecoded_plAddr_toNat s r n (k * 4) hd hcfg (by omega)
  have hlen := latchDecoded_plLen_toNat s r n (k * 4) hd (by omega)
  refine ⟨hcfg, hmem, ⟨hdone, herr, hcode, hbusy, fun _ => rfl⟩, hres, fun _ => ?payload, fun hmatch => ?type⟩
  case payload =>
    rw [hihl, haddr, hlen, latchDecoded_cfg]
    omega
  case type => exact ((matchFlag_iff _ _ _).1 hmatch).1

/-! ### The commands -/

theorem execCsum_inv (s t : State) (h : s.Inv) (ht : exec .csum s = .next t) : t.Inv := by
  rcases execCsum_next s t ht with ⟨e, _, rfl⟩ | ⟨_, bs, _, rfl⟩
  · exact raiseError_inv e s h
  · exact complete_inv _ (latchSum_inv _ s h (inetSum_le bs))

/-- The packet lies in MEM, since the test on its range has passed. -/
theorem echoBuilt_inv (s : State) (pl : List Byte) (h : s.Inv) (he : buildError s = none)
    (hl : pl.length = effLen s) : (echoBuilt s pl).Inv := by
  obtain ⟨_, _, hdest, _⟩ := (buildError_none s).1 he
  have hlen : packetLen s = 8 + pl.length := by rw [packetLen, hl]
  have hpacket : (memWrite s.ops.txAddr.toNat (echoPacket s.ops.echoId s.ops.echoSeq pl) s).Inv :=
    memWrite_inv _ _ s h (by rwa [echoPacket_length, ← hlen])
  have heff : effLen s ≤ 1024 := Nat.min_le_right _ _
  exact complete_inv _ (latchPacket_inv _ _ _ (latchSum_inv _ _ hpacket (inetSum_le _)) (by omega) (by omega))

theorem execBuildEcho_inv (s t : State) (h : s.Inv) (ht : exec .buildEcho s = .next t) : t.Inv := by
  rcases execBuildEcho_next s t ht with ⟨e, _, rfl⟩ | ⟨he, pl, hread, rfl⟩
  · exact raiseError_inv e s h
  · exact echoBuilt_inv s pl h he ((memRead_ok _ _ _ _ _).1 hread).1

theorem execDecode_inv (s t : State) (h : s.Inv) (ht : exec .decode s = .next t) : t.Inv := by
  rcases execDecode_next s t ht with ⟨e, _, rfl⟩ | ⟨he, first, hd, hfirst, _, rfl⟩
  · exact raiseError_inv e _ (clearDecoded_inv s h)
  · obtain ⟨b0, h0, h5, hihl⟩ := first_of_decodeError_none s first he hfirst
    obtain ⟨hdatagram, hheader⟩ := (decodeError_none s).1 he
    obtain ⟨hr, _⟩ := (datagramError_none s).1 hdatagram
    obtain ⟨_, hn⟩ := (headerError_none _ _).1 (hheader b0 h0)
    rw [ihlBytes_toNat] at hn
    rw [hihl]
    exact complete_inv _ (latchDecoded_inv _ _ _ hd s h h5 (by omega) hn hr)

theorem exec_inv (i : Instr) (s t : State) (h : s.Inv) (ht : exec i s = .next t) : t.Inv := by
  cases i with
  | csum => exact execCsum_inv s t h ht
  | buildEcho => exact execBuildEcho_inv s t h ht
  | decode => exact execDecode_inv s t h ht

/-! ### The moves of the agents -/

theorem engineMove_inv (s t : State) (h : s.Inv) (ht : engineMove s = .next t) : t.Inv := by
  rcases engineMove_next s t ht with ⟨_, rfl⟩ | ⟨_, _, rfl⟩ | ⟨_, i, _, hi⟩
  · exact h
  · exact raiseError_inv .illegalCmd s h
  · exact exec_inv i s t h hi

/-- Beside CMD and STATUS a register write changes CTRL or an operand, of which the invariant says nothing. -/
theorem regWrite_inv (r : RegName) (v : Word) (s : State) (h : s.Inv) : (regWrite r v s).Inv := by
  cases r with
  | cmd => exact issue_inv v s h
  | status => exact statusWrite_inv v s h
  | _ => exact h

theorem windowWrite_inv (off : Nat) (v : Word) (s : State) (h : s.Inv) : (windowWrite off v s).Inv := by
  rcases windowWrite_cases off v s with ⟨_, hw⟩ | ⟨_, _, hw⟩ | ⟨r, _, _, _, hw⟩ | ⟨_, _, hw⟩
  · exact hw ▸ statusWrite_inv v s h
  · exact hw ▸ setOvr_inv s h
  · exact hw ▸ regWrite_inv r v s h
  · rwa [hw]

theorem reset_statusInv : statusInv State.reset.status := by decide

theorem reset_resultInv : resultInv State.reset := by decide

/-- After `rst` no byte is written and no decode is valid, so only MEM_SIZE has to be legal. -/
theorem applyReset_inv (s : State) (hcfg : s.cfg.wf) : (applyReset s).Inv :=
  ⟨hcfg, ⟨Memory.reset_wf, nofun⟩, reset_statusInv, reset_resultInv, nofun, nofun⟩

theorem hostMove_inv (act : HostAct) (s t : State) (h : s.Inv) (ht : hostMove act s = .next t) : t.Inv := by
  have hpop : (popProg s).Inv := h
  rcases hostMove_next act s t ht with ⟨e, rfl⟩ | ⟨x, b, hx, _, rfl⟩ | ⟨off, v, rfl⟩ | rfl
  · exact (inv_withEnv s e).2 h
  · exact memWrite_inv x [b] _ hpop hx
  · exact windowWrite_inv off v _ hpop
  · exact applyReset_inv _ h.1

theorem hostTurn_inv (s t : State) (h : s.Inv) (ht : hostTurn s = .next t) : t.Inv := by
  rcases hostTurn_next s t ht with ⟨_, rfl⟩ | ⟨act, _, _, hm⟩
  · exact h
  · exact hostMove_inv act s t h hm

theorem step_inv (s t : State) (h : s.Inv) (ht : step s = .next t) : t.Inv := by
  have hturn := takeTurn_inv s h
  rcases step_next s t ht with ⟨_, he⟩ | ⟨_, hh⟩
  · exact engineMove_inv _ t hturn he
  · exact hostTurn_inv _ t hturn hh

end Sys2Proof.Machine

/-! CERTIFICATE. The statements about the invariant of the machine, settled. -/

namespace Sys2Proof.Proofs

open Sys2Proof Sys2Proof.Machine

/-- Settles O34: every update keeps the invariant, BUILD_ECHO's and DECODE's because their range tests have passed. -/
theorem stepKeepsInvariant : Obligations.StepKeepsInvariant := by
  unfold Obligations.StepKeepsInvariant
  exact step_inv

/-- Settles O33: the reset state is what `rst` makes of itself, and the default MEM_SIZE is legal. -/
theorem resetMeetsInvariant : Obligations.ResetMeetsInvariant := by
  unfold Obligations.ResetMeetsInvariant
  exact applyReset_inv State.reset (by decide)

end Sys2Proof.Proofs

/-! SUPPORT. The word at each index of a buffer (spec/40_checksum.md R100), and a memory in canonical form as the set of
its written bytes (log 2). -/

namespace Sys2Proof.Machine

/-! ### Words by index -/

theorem wordsOf_getElem?_pair (bs : List Byte) (i : Nat) (b0 b1 : Byte) (h0 : bs[2 * i]? = some b0)
    (h1 : bs[2 * i + 1]? = some b1) : (wordsOf bs)[i]? = some (be16 b0 b1) := by
  induction bs using wordsOf.induct generalizing i with
  | case1 => simp at h0
  | case2 b => simp at h1
  | case3 c0 c1 bs ih =>
    cases i with
    | zero =>
      obtain rfl : c0 = b0 := Option.some.inj h0
      obtain rfl : c1 = b1 := Option.some.inj h1
      rfl
    | succ i => exact ih i h0 h1

theorem wordsOf_getElem?_last (bs : List Byte) (i : Nat) (b : Byte) (hl : bs.length = 2 * i + 1)
    (h : bs[2 * i]? = some b) : (wordsOf bs)[i]? = some (be16 b 0#8) := by
  induction bs using wordsOf.induct generalizing i with
  | case1 => simp at h
  | case2 c =>
    obtain rfl : i = 0 := by simpa using hl
    obtain rfl : c = b := Option.some.inj h
    rfl
  | case3 c0 c1 bs ih =>
    simp only [List.length_cons] at hl
    cases i with
    | zero => omega
    | succ i => exact ih i (by omega) h

/-! ### Memory as a set of cells -/

theorem Memory.mem_of_read (m : Memory) (a : Nat) (b : Byte) (h : Memory.read m a = some b) : (a, b) ∈ m := by
  induction m with
  | nil => cases h
  | cons c m ih =>
    rw [Memory.read] at h
    split at h
    · rename_i hc
      obtain rfl : c = (a, b) := Prod.ext hc (Option.some.inj h)
      exact List.mem_cons_self
    · exact List.mem_cons_of_mem c (ih h)

theorem Memory.read_of_mem (m : Memory) (hwf : Memory.wf m) (c : Host.Cell) (h : c ∈ m) :
    Memory.read m c.1 = some c.2 := by
  induction m with
  | nil => cases h
  | cons d m ih =>
    obtain ⟨hd, hm⟩ := List.pairwise_cons.1 hwf
    rcases List.mem_cons.1 h with rfl | h
    · rw [Memory.read, if_pos rfl]
    · rw [Memory.read, if_neg (hd c h).ne, ih hm h]

/-- The cells of a canonical memory are its written bytes. -/
theorem Memory.mem_iff_read (m : Memory) (hwf : Memory.wf m) (c : Host.Cell) :
    c ∈ m ↔ Memory.read m c.1 = some c.2 :=
  ⟨Memory.read_of_mem m hwf c, Memory.mem_of_read m c.1 c.2⟩

/-- Rising addresses leave one order for the same cells. -/
theorem Memory.eq_of_mem_iff (m n : Memory) (hm : Memory.wf m) (hn : Memory.wf n) (h : ∀ c, c ∈ m ↔ c ∈ n) :
    m = n := by
  have hirrefl : Std.Irrefl fun c d : Host.Cell => c.1 < d.1 := ⟨fun _ => lt_irrefl _⟩
  have hantisymm : Std.Antisymm fun c d : Host.Cell => c.1 < d.1 := ⟨fun _ _ hcd hdc => absurd hdc hcd.asymm⟩
  exact hm.eq_of_mem_iff hn h

end Sys2Proof.Machine

/-! SUPPORT. Where BUILD_ECHO and DECODE stop, that every stop lies in the command's own read range in MEM, and what a
command leaves as it was (spec/30_encoding.md R84, spec/60_exceptions.md R165, R172). -/

namespace Sys2Proof.Machine

/-! ### Stops -/

theorem exec_buildEcho_of_firstUnwritten (s : State) (x : Nat) (he : buildError s = none)
    (h : firstUnwritten s.mem s.ops.plAddr.toNat (effLen s) x) :
    exec .buildEcho s = .fault (.uninitRead .buildEcho x) := by
  have hread : memRead .buildEcho s.ops.plAddr.toNat (effLen s) s = .error (.uninitRead .buildEcho x) :=
    (memRead_error _ _ _ _ _).2 ⟨x, rfl, h⟩
  simp only [exec, execBuildEcho, he, hread]

/-- An unwritten first byte is no error (R172, R173): DECODE stops at it. -/
theorem exec_decode_of_unwritten_first (s : State) (hd : datagramError s = none)
    (h : Memory.read s.mem s.ops.rxAddr.toNat = none) :
    exec .decode s = .fault (.uninitRead .decode s.ops.rxAddr.toNat) := by
  have he : decodeError s = none := by simp only [decodeError, hd, h]
  have hread : memRead .decode s.ops.rxAddr.toNat 1 s = .error (.uninitRead .decode s.ops.rxAddr.toNat) :=
    (memRead_error _ _ _ _ _).2 ⟨_, rfl, by omega, h, fun y _ _ => by omega⟩
  simp only [exec, execDecode, he, hread]

theorem exec_decode_of_unwritten_header (s : State) (b0 : Byte) (x : Nat) (hd : datagramError s = none)
    (h0 : Memory.read s.mem s.ops.rxAddr.toNat = some b0) (hh : headerError b0 s.ops.rxLen.toNat = none)
    (hx : firstUnwritten s.mem (s.ops.rxAddr.toNat + ihlBytes b0) 8 x) :
    exec .decode s = .fault (.uninitRead .decode x) := by
  have he : decodeError s = none := by simp only [decodeError, hd, h0, hh]
  have hfirst : memRead .decode s.ops.rxAddr.toNat 1 s = .ok [b0] :=
    (memRead_ok _ _ _ _ _).2 ⟨rfl, fun i hi => by
      obtain rfl : i = 0 := by omega
      exact h0⟩
  have hheader : memRead .decode (s.ops.rxAddr.toNat + ihlBytes (headerByte [b0] 0)) icmpHdrLen s =
      .error (.uninitRead .decode x) := (memRead_error _ _ _ _ _).2 ⟨x, rfl, hx⟩
  simp only [exec, execDecode, he, hfirst, hheader]

theorem exec_csum_fault (s : State) (f : Fault) (h : exec .csum s = .fault f) :
    memRead .csum s.ops.csAddr.toNat s.ops.csLen.toNat s = .error f := by
  have he : csumError s = none := (exec_fault .csum s f h).1
  simp only [exec, execCsum, he] at h
  split at h
  · rename_i g hg
    cases h; exact hg
  · cases h

theorem exec_buildEcho_fault (s : State) (f : Fault) (h : exec .buildEcho s = .fault f) :
    memRead .buildEcho s.ops.plAddr.toNat (effLen s) s = .error f := by
  have he : buildError s = none := (exec_fault .buildEcho s f h).1
  simp only [exec, execBuildEcho, he] at h
  split at h
  · rename_i g hg
    cases h; exact hg
  · cases h

/-- What DECODE reads lies in the datagram, so the byte it stops at does. -/
theorem exec_decode_fault (s : State) (f : Fault) (h : exec .decode s = .fault f) :
    ∃ a n, s.ops.rxAddr.toNat ≤ a ∧ a + n ≤ s.ops.rxAddr.toNat + s.ops.rxLen.toNat ∧
      memRead .decode a n s = .error f := by
  obtain ⟨he, hread⟩ := execDecode_fault s f h
  obtain ⟨hdatagram, hheader⟩ := (decodeError_none s).1 he
  obtain ⟨_, hne⟩ := (datagramError_none s).1 hdatagram
  rcases hread with hf | ⟨first, hf, hh⟩
  · exact ⟨_, 1, le_refl _, by omega, hf⟩
  · obtain ⟨b0, h0, _, hihl⟩ := first_of_decodeError_none s first he hf
    obtain ⟨_, hn⟩ := (headerError_none _ _).1 (hheader b0 h0)
    rw [← ihlBytes_toNat] at hihl
    exact ⟨_, icmpHdrLen, Nat.le_add_right _ _, by omega, hh⟩

/-- MemRead stops at an unwritten byte of its range. -/
theorem memRead_error_within (cmd : Instr) (a n : Nat) (s : State) (f : Fault) (h : memRead cmd a n s = .error f) :
    ∃ x, f = .uninitRead cmd x ∧ Memory.read s.mem x = none ∧ within x a n = true := by
  obtain ⟨x, hf, hx, hnone, _⟩ := (memRead_error _ _ _ _ _).1 h
  exact ⟨x, hf, hnone, (within_iff x a n).2 hx⟩

/-- A command stops at an unwritten byte of its own read range. -/
theorem exec_fault_readRange (i : Instr) (s : State) (f : Fault) (h : exec i s = .fault f) :
    ∃ x, f = .uninitRead i x ∧ Memory.read s.mem x = none ∧ readRange i s x = true := by
  cases i with
  | csum => exact memRead_error_within _ _ _ s f (exec_csum_fault s f h)
  | buildEcho => exact memRead_error_within _ _ _ s f (exec_buildEcho_fault s f h)
  | decode =>
    obtain ⟨a, n, hlo, hhi, hread⟩ := exec_decode_fault s f h
    obtain ⟨x, hf, hnone, hx⟩ := memRead_error_within _ _ _ s f hread
    obtain ⟨hax, hxn⟩ := (within_iff _ _ _).1 hx
    exact ⟨x, hf, hnone, (within_iff _ _ _).2 (by omega)⟩

/-- The read range of a command whose tests pass lies in MEM. -/
theorem lt_memSize_of_readRange (i : Instr) (s : State) (x : Nat) (hn : commandError i s = none)
    (h : readRange i s x = true) : x < s.cfg.memSize := by
  cases i with
  | csum =>
    obtain ⟨_, hx⟩ := (within_iff _ _ _).1 h
    exact hx.trans_le ((csumError_none s).1 hn)
  | buildEcho =>
    obtain ⟨_, hx⟩ := (within_iff _ _ _).1 h
    obtain ⟨_, hsource, _, _⟩ := (buildError_none s).1 hn
    exact hx.trans_le hsource
  | decode =>
    obtain ⟨_, hx⟩ := (within_iff _ _ _).1 h
    obtain ⟨hdatagram, _⟩ := (decodeError_none s).1 hn
    obtain ⟨hr, _⟩ := (datagramError_none s).1 hdatagram
    exact hx.trans_le hr

/-! ### Frames -/

/-- No command touches the parameters, CTRL, an operand or the host side (R84). -/
theorem exec_frame (i : Instr) (s t : State) (h : exec i s = .next t) :
    t.cfg = s.cfg ∧ t.ctrl = s.ctrl ∧ t.ops = s.ops ∧ t.env = s.env := by
  cases i with
  | csum => rcases execCsum_next s t h with ⟨e, _, rfl⟩ | ⟨_, bs, _, rfl⟩ <;> simp
  | buildEcho => rcases execBuildEcho_next s t h with ⟨e, _, rfl⟩ | ⟨_, pl, _, rfl⟩ <;> simp
  | decode => rcases execDecode_next s t h with ⟨e, _, rfl⟩ | ⟨_, first, hd, _, _, rfl⟩ <;> simp [decodeFail]

/-- CSUM touches CS_SUM, CS_RESULT and CSUM_ZERO beside the completion fields. -/
theorem exec_csum_frame (s t : State) (h : exec .csum s = .next t) :
    t.dec = s.dec ∧ t.res.txLen = s.res.txLen ∧ t.status.trunc = s.status.trunc ∧
      t.status.decValid = s.status.decValid ∧ t.status.matched = s.status.matched ∧ t.mem = s.mem := by
  rcases execCsum_next s t h with ⟨e, _, rfl⟩ | ⟨_, bs, _, rfl⟩ <;> simp

/-- BUILD_ECHO touches nothing of a decode. -/
theorem exec_buildEcho_frame (s t : State) (h : exec .buildEcho s = .next t) :
    t.dec = s.dec ∧ t.status.decValid = s.status.decValid ∧ t.status.matched = s.status.matched := by
  rcases execBuildEcho_next s t h with ⟨e, _, rfl⟩ | ⟨_, pl, _, rfl⟩ <;> simp

/-- DECODE touches the decode registers, DEC_VALID and MATCH beside the completion fields. -/
theorem exec_decode_frame (s t : State) (h : exec .decode s = .next t) :
    t.res = s.res ∧ t.status.csumZero = s.status.csumZero ∧ t.status.trunc = s.status.trunc ∧ t.mem = s.mem := by
  rcases execDecode_next s t h with ⟨e, _, rfl⟩ | ⟨_, first, hd, _, _, rfl⟩ <;> simp [decodeFail]

/-- A byte that BUILD_ECHO changes is one of its packet's, and then its tests have passed. -/
theorem exec_buildEcho_changed (s t : State) (x : Nat) (h : exec .buildEcho s = .next t)
    (hx : Memory.read t.mem x ≠ Memory.read s.mem x) :
    buildError s = none ∧ s.ops.txAddr.toNat ≤ x ∧ x < s.ops.txAddr.toNat + packetLen s := by
  rcases execBuildEcho_next s t h with ⟨e, _, rfl⟩ | ⟨hn, pl, hread, rfl⟩
  · exact absurd rfl hx
  · have hl : pl.length = effLen s := ((memRead_ok _ _ _ _ _).1 hread).1
    refine ⟨hn, not_not.1 fun hout => hx ?_⟩
    rw [packetLen, icmpHdrLen, ← hl] at hout
    exact (echoBuilt_read s pl x).trans (if_neg hout)

/-! ### The packet verifies -/

/-- The packet is its checksum inserted behind type and code, where the header summed had zeros (R122, R124). -/
theorem echoPacket_eq_insert_checksum (id sq : Half) (pl : List Byte) :
    let rest := [hi8 id, lo8 id, hi8 sq, lo8 sq] ++ pl
    let c := BitVec.ofNat 16 (inetChecksum ([typeEchoRequest, codeEcho] ++ [0#8, 0#8] ++ rest))
    echoPacket id sq pl = [typeEchoRequest, codeEcho] ++ [hi8 c, lo8 c] ++ rest := by
  have hhi : hi8 0#16 = 0#8 := rfl
  have hlo : lo8 0#16 = 0#8 := rfl
  simp only [echoPacket, packetSum, inetChecksum, echoHeader, List.cons_append, List.nil_append, hhi, hlo]

theorem inetSum_echoPacket (id sq : Half) (pl : List Byte) : inetSum (echoPacket id sq pl) = 0xFFFF := by
  rw [echoPacket_eq_insert_checksum]
  exact inetSum_insert_checksum _ _ _ rfl rfl

end Sys2Proof.Machine

/-! CERTIFICATE. The statements about words, canonical memory, and the stops, frames and writes of the commands,
settled. -/

namespace Sys2Proof.Proofs

open Sys2Proof Sys2Proof.Machine

/-- Settles O4: a word's two bytes stand at twice its index, and an odd last byte is the high one. -/
theorem wordsPairBytes : Obligations.WordsPairBytes := by
  unfold Obligations.WordsPairBytes
  refine fun bs => ⟨wordsOf_length bs, fun i b0 b1 h0 h1 => ?pair, fun i b hl h => ?last⟩
  case pair => exact ⟨_, wordsOf_getElem?_pair bs i b0 b1 h0 h1, be16_toNat b0 b1⟩
  case last => exact ⟨_, wordsOf_getElem?_last bs i b hl h, by simp [be16_toNat]⟩

/-- Settles O51: a canonical memory is the rising list of its written bytes. -/
theorem canonicalMemoryUnique : Obligations.CanonicalMemoryUnique := by
  unfold Obligations.CanonicalMemoryUnique
  intro m n hm hn h
  refine Memory.eq_of_mem_iff m n hm hn fun c => ?_
  rw [Memory.mem_iff_read m hm, Memory.mem_iff_read n hn, h]

/-- Settles O15: the payload is read once every test has passed. -/
theorem buildEchoStopsOnUnwritten : Obligations.BuildEchoStopsOnUnwritten := by
  unfold Obligations.BuildEchoStopsOnUnwritten
  intro s x n e p tx htrunc hp htx hover hx
  have herr : buildError s = none := (buildError_none s).2 ⟨htrunc, hp, htx, decide_eq_false hover⟩
  exact exec_buildEcho_of_firstUnwritten s x herr hx

/-- Settles O17: the packet holds the checksum of its own bytes, and CSUM sums exactly these bytes. -/
theorem builtPacketVerifies : Obligations.BuiltPacketVerifies := by
  unfold Obligations.BuiltPacketVerifies
  intro s t u hs hts hlen hr hcopy
  obtain ⟨pl, hl, _, rfl⟩ := exec_buildEcho_success s t hs hts
  have hpacket : (echoPacket s.ops.echoId s.ops.echoSeq pl).length = (echoBuilt s pl).res.txLen.toNat := by
    rw [echoPacket_length, echoBuilt_txLen_toNat, hl]
  have hheld := holdsAt_of_copy _ u.mem _ u.ops.csAddr.toNat _ (echoBuilt_holdsAt s pl) (by rwa [hpacket])
  refine ⟨_, exec_csum_of_holdsAt u _ hr (by rw [hlen, hpacket]) hheld, ?_⟩
  rw [inetSum_echoPacket]
  exact ⟨rfl, rfl, rfl⟩

/-- Settles O20: the first byte is read behind the range tests, the header behind the tests on that byte. -/
theorem decodeStopsOnUnwritten : Obligations.DecodeStopsOnUnwritten := by
  unfold Obligations.DecodeStopsOnUnwritten
  intro s r n hr hne
  have hd : datagramError s = none := (datagramError_none s).2 ⟨hr, hne⟩
  refine ⟨exec_decode_of_unwritten_first s hd, fun b0 x h0 h5 hn hx => ?header⟩
  case header =>
    rw [← ihlWords_toNat] at h5
    rw [← ihlBytes_toNat] at hn hx
    exact exec_decode_of_unwritten_header s b0 x hd h0 ((headerError_none b0 n).2 ⟨h5, hn⟩) hx

/-- Settles O26: each command's frame, of which only BUILD_ECHO's leaves out bytes of MEM. -/
theorem commandFrames : Obligations.CommandFrames := by
  unfold Obligations.CommandFrames
  intro i s t h
  obtain ⟨hcfg, hctrl, hops, henv⟩ := exec_frame i s t h
  refine ⟨hcfg, hctrl, hops, henv, exec_ovr i s t h, ?_⟩
  cases i with
  | csum =>
    obtain ⟨hdec, htx, htrunc, hvalid, hmatch, hmem⟩ := exec_csum_frame s t h
    exact ⟨hdec, htx, htrunc, hvalid, hmatch, fun x => by rw [hmem]⟩
  | buildEcho =>
    obtain ⟨hdec, hvalid, hmatch⟩ := exec_buildEcho_frame s t h
    exact ⟨hdec, hvalid, hmatch, fun x hout => not_not.1 fun hx => hout (exec_buildEcho_changed s t x h hx).2⟩
  | decode =>
    obtain ⟨hres, hzero, htrunc, hmem⟩ := exec_decode_frame s t h
    exact ⟨hres, hzero, htrunc, fun x => by rw [hmem]⟩

/-- Settles O27: only BUILD_ECHO changes MEM, in a packet whose range test has passed. -/
theorem writesStayInMem : Obligations.WritesStayInMem := by
  unfold Obligations.WritesStayInMem
  intro i s t x h hx
  cases i with
  | csum =>
    obtain ⟨_, _, _, _, _, hmem⟩ := exec_csum_frame s t h
    exact absurd (by rw [hmem]) hx
  | buildEcho =>
    obtain ⟨hn, hlo, hhi⟩ := exec_buildEcho_changed s t x h hx
    obtain ⟨_, _, hdest, _⟩ := (buildError_none s).1 hn
    exact ⟨rfl, hhi.trans_le hdest, hlo, by rwa [packetLen_eq, ← Nat.add_assoc] at hhi⟩
  | decode =>
    obtain ⟨_, _, _, hmem⟩ := exec_decode_frame s t h
    exact absurd (by rw [hmem]) hx

/-- Settles O28: a command reads only behind its tests, and these keep its read range in MEM. -/
theorem uninitOnlyAfterTests : Obligations.UninitOnlyAfterTests := by
  unfold Obligations.UninitOnlyAfterTests
  intro i s f h
  have hn : commandError i s = none := (exec_fault i s f h).1
  obtain ⟨x, hf, hnone, hx⟩ := exec_fault_readRange i s f h
  exact ⟨hn, x, hf, hnone, hx, lt_memSize_of_readRange i s x hn hx⟩

end Sys2Proof.Proofs

/-! SUPPORT. Whose turn it is, what a step keeps while a command stays pending, and how a POLL ends
(spec/00_scope.md R7, spec/20_memory.md R72, spec/30_encoding.md R88). -/

namespace Sys2Proof.Machine

/-! ### Turns -/

theorem nextAgent_of_sched (s : State) (a : Agent) (rest : List Agent) (h : s.env.sched = a :: rest) :
    nextAgent s = a := by
  simp only [nextAgent, h]

theorem nextAgent_idle (s : State) (hs : s.env.sched = []) (hb : s.status.busy = false) : nextAgent s = .host := by
  simp [nextAgent, hs, hb]

theorem nextAgent_engine_alone (s : State) (hs : s.env.sched = []) (hb : s.status.busy = true)
    (hp : s.env.prog = []) : nextAgent s = .engine := by
  simp [nextAgent, hs, hb, hp]

theorem step_host (s : State) (ha : nextAgent s = .host) : step s = hostTurn (takeTurn s) := by
  simp only [step, ha]

theorem hostTurn_cons (s : State) (act : HostAct) (rest : List HostAct) (h : s.env.prog = act :: rest) :
    hostTurn s = hostMove act s := by
  simp only [hostTurn, h]

theorem hostTurn_nil (s : State) (h : s.env.prog = []) : hostTurn s = .next s := by
  simp only [hostTurn, h]

theorem engineMove_idle (s : State) (hb : s.status.busy = false) : engineMove s = .next s := by
  simp [engineMove, hb]

theorem engineMove_of_fetch (s : State) (i : Instr) (hb : s.status.busy = true) (hf : fetch s = .ok i) :
    engineMove s = exec i s := by
  simp only [engineMove, hb, if_true, hf]

/-- Decoding PEND looks at PEND alone. -/
theorem fetch_takeTurn (s : State) : fetch (takeTurn s) = fetch s := by
  rw [fetch, takeTurn_pend, fetch]

/-! ### ENGINE's move completes the pending command -/

theorem exec_completes (i : Instr) (s t : State) (h : exec i s = .next t) :
    t.status.busy = false ∧ t.status.done = true := by
  rcases exec_next i s t h with ⟨e, _, rfl⟩ | ⟨_, u, rfl, _, _⟩ <;> exact ⟨rfl, rfl⟩

theorem engineMove_busy (s t : State) (hb : s.status.busy = true) (h : engineMove s = .next t) :
    t.status.busy = false ∧ t.status.done = true ∧ t.env = s.env := by
  rcases engineMove_next s t h with ⟨hidle, _⟩ | ⟨_, _, rfl⟩ | ⟨_, i, _, hi⟩
  · exact absurd (hb.symm.trans hidle) nofun
  · exact ⟨rfl, rfl, rfl⟩
  · obtain ⟨hbusy, hdone⟩ := exec_completes i s t hi
    obtain ⟨_, _, _, henv⟩ := exec_frame i s t hi
    exact ⟨hbusy, hdone, henv⟩

/-! ### What stays while a command is pending -/

/-- The command stays captured from `s` to `t`: its word, its operands, every result and every byte of its footprint
(spec/20_memory.md R75, spec/70_reset_and_hazards.md R195, R197). DONE, OVR and the host side are left unsaid. -/
abbrev captured (s t : State) : Prop :=
  t.cfg = s.cfg ∧ t.pend = s.pend ∧ t.ctrl = s.ctrl ∧ t.ops = s.ops ∧ t.res = s.res ∧ t.dec = s.dec ∧
    t.status.err = s.status.err ∧ t.status.errcode = s.status.errcode ∧ t.status.csumZero = s.status.csumZero ∧
    t.status.trunc = s.status.trunc ∧ t.status.decValid = s.status.decValid ∧
    t.status.matched = s.status.matched ∧
    ∀ x, inReadFootprint s x = true ∨ inWriteFootprint s x = true → Memory.read t.mem x = Memory.read s.mem x

theorem captured_withEnv (s : State) (e : HostSide) : captured s { s with env := e } :=
  ⟨rfl, rfl, rfl, rfl, rfl, rfl, rfl, rfl, rfl, rfl, rfl, rfl, fun _ _ => rfl⟩

/-- Nothing captured looks at the host side, so neither does using up a turn. -/
theorem captured_of_takeTurn (s t : State) (h : captured (takeTurn s) t) : captured s t := by
  rwa [takeTurn_eq_withEnv] at h

theorem captured_statusWrite (v : Word) (s : State) : captured s (statusWrite v s) :=
  ⟨rfl, rfl, rfl, rfl, rfl, rfl, rfl, rfl, rfl, rfl, rfl, rfl, fun _ _ => rfl⟩

theorem captured_setOvr (s : State) : captured s (setOvr s) :=
  ⟨rfl, rfl, rfl, rfl, rfl, rfl, rfl, rfl, rfl, rfl, rfl, rfl, fun _ _ => rfl⟩

theorem hazardous_of_footprint (x : Nat) (b : Byte) (s : State) (hb : s.status.busy = true)
    (h : inReadFootprint s x = true ∨ inWriteFootprint s x = true) : hazardous x b s = true := by
  rcases h with h | h <;> simp [hazardous, hb, h]

/-- A byte write that is no hazard lies outside the footprint, so every byte of the footprint stays. -/
theorem captured_memWrite (x : Nat) (b : Byte) (s : State) (hb : s.status.busy = true)
    (hz : hazardous x b s = false) : captured s (memWrite x [b] s) := by
  refine ⟨rfl, rfl, rfl, rfl, rfl, rfl, rfl, rfl, rfl, rfl, rfl, rfl, fun y hy => ?_⟩
  have hne : y ≠ x := by
    rintro rfl
    exact absurd ((hazardous_of_footprint y b s hb hy).symm.trans hz) nofun
  rw [memWrite_one_read, if_neg hne]

/-- While BUSY = 1 a write below 0x1000 is one to STATUS, or dropped (R195). -/
theorem captured_windowWrite (off : Nat) (v : Word) (s : State) (hb : s.status.busy = true) :
    captured s (windowWrite off v s) := by
  rcases windowWrite_cases off v s with ⟨_, h⟩ | ⟨_, _, h⟩ | ⟨_, _, _, hidle, _⟩ | ⟨_, hidle, _⟩
  · exact h ▸ captured_statusWrite v s
  · exact h ▸ captured_setOvr s
  · exact absurd (hb.symm.trans hidle) nofun
  · exact absurd (hb.symm.trans hidle) nofun

/-- No HOST action but `rst`, after which BUSY = 0, touches what is captured. -/
theorem captured_hostMove (act : HostAct) (s t : State) (hb : s.status.busy = true) (h : hostMove act s = .next t)
    (ht : t.status.busy = true) : captured s t := by
  rcases hostMove_next act s t h with ⟨e, rfl⟩ | ⟨x, b, _, hz, rfl⟩ | ⟨off, v, rfl⟩ | rfl
  · exact captured_withEnv s e
  · exact captured_memWrite x b (popProg s) hb hz
  · exact captured_windowWrite off v (popProg s) hb
  · cases ht

theorem captured_hostTurn (s t : State) (hb : s.status.busy = true) (h : hostTurn s = .next t)
    (ht : t.status.busy = true) : captured s t := by
  rcases hostTurn_next s t h with ⟨_, rfl⟩ | ⟨act, _, _, hm⟩
  · exact captured_withEnv t t.env
  · exact captured_hostMove act s t hb hm ht

/-! ### A run of steps, and POLL -/

/-- A fault ends a run, whatever steps are left (spec/60_exceptions.md R173). -/
theorem stepTimes_fault_add (j k : Nat) (s : State) (f : Fault) (h : stepTimes k s = .fault f) :
    stepTimes (k + j) s = .fault f := by
  induction k generalizing s with
  | zero => cases h
  | succ k ih =>
    rw [Nat.add_right_comm, stepTimes]
    rw [stepTimes] at h
    cases hs : step s with
    | next t =>
      rw [hs] at h
      exact ih t h
    | fault g =>
      rw [hs] at h
      exact h
    | refused r =>
      rw [hs] at h
      cases h

theorem stepTimes_succ_of_next (k : Nat) (s t : State) (h : step s = .next t) :
    stepTimes (k + 1) s = stepTimes k t := by
  simp only [stepTimes, h]

theorem stepTimes_one (s : State) : stepTimes 1 s = step s := by
  cases h : step s <;> simp only [stepTimes, h]

/-- One step more than a run that has ended in `u` is a step from `u`. -/
theorem stepTimes_succ_last (k : Nat) (s u : State) (h : stepTimes k s = .next u) : stepTimes (k + 1) s = step u := by
  induction k generalizing s with
  | zero =>
    cases h
    exact stepTimes_one u
  | succ k ih =>
    rw [stepTimes] at h
    cases hs : step s with
    | next t =>
      rw [hs] at h
      rw [stepTimes_succ_of_next (k + 1) s t hs, ih t h]
    | fault g =>
      rw [hs] at h
      cases h
    | refused r =>
      rw [hs] at h
      cases h

theorem pollStep_busy (s : State) (hb : s.status.busy = true) : pollStep s = recordRead (statusWord s.status) s :=
  if_pos hb

theorem pollStep_idle (s : State) (hb : s.status.busy = false) :
    pollStep s = popProg (recordRead (statusWord s.status) s) :=
  if_neg (by simp [hb])

/-- HOST's turn with POLL next in its program. -/
theorem step_poll (s : State) (rest : List HostAct) (ha : nextAgent s = .host) (hp : s.env.prog = .poll :: rest) :
    step s = .next (pollStep (takeTurn s)) := by
  rw [step_host s ha, hostTurn_cons _ .poll rest (by rwa [takeTurn_prog]), hostMove]

/-- HOST's turns before ENGINE's leave POLL in its program, and ENGINE's step then completes the pending command. -/
theorem stepTimes_poll_waits (k : Nat) (s u : State) (rest : List HostAct) (hb : s.status.busy = true)
    (hp : s.env.prog = .poll :: rest) (hs : s.env.sched = List.replicate k .host ++ [.engine, .host])
    (h : stepTimes (k + 1) s = .next u) :
    u.status.busy = false ∧ u.status.done = true ∧ u.env.prog = .poll :: rest ∧ u.env.sched = [.host] := by
  induction k generalizing s with
  | zero =>
    rw [stepTimes_one, step_engine s (nextAgent_of_sched s _ _ hs)] at h
    obtain ⟨hbusy, hdone, henv⟩ := engineMove_busy _ u (by rwa [takeTurn_status]) h
    refine ⟨hbusy, hdone, ?_, ?_⟩
    · rw [henv, takeTurn_prog, hp]
    · rw [henv, takeTurn_sched, hs]
      rfl
  | succ k ih =>
    have hb' : (takeTurn s).status.busy = true := by rwa [takeTurn_status]
    have hstep := step_poll s rest (nextAgent_of_sched s _ _ hs) hp
    rw [pollStep_busy _ hb'] at hstep
    rw [stepTimes_succ_of_next _ _ _ hstep] at h
    refine ih (recordRead _ (takeTurn s)) hb' ?_ ?_ h
    · exact (takeTurn_prog s).trans hp
    · refine (takeTurn_sched s).trans ?_
      rw [hs]
      rfl

/-! ### The two memory hazards, and unwritten bytes -/

/-- The hazard of a write, as of every footprint, does not look at HOST's program. -/
theorem hazardous_popProg (x : Nat) (b : Byte) (s : State) : hazardous x b (popProg s) = hazardous x b s := rfl

/-- A write outside the footprint, before and after it, is no hazard (log 7). -/
theorem not_hazardous_of_outside (x : Nat) (b : Byte) (s : State) (hr : inReadFootprint s x = false)
    (hw : inWriteFootprint s x = false) (hr' : inReadFootprint (memWrite x [b] s) x = false)
    (hw' : inWriteFootprint (memWrite x [b] s) x = false) : hazardous x b s = false := by
  simp [hazardous, hr, hw, hr', hw']

theorem memWindowWrite_hazardous (x : Nat) (b : Byte) (s : State) (h : hazardous x b s = true) :
    memWindowWrite x b s = .fault (.hazard x) :=
  if_pos h

theorem memWindowWrite_not_hazardous (x : Nat) (b : Byte) (s : State) (h : hazardous x b s = false) :
    memWindowWrite x b s = .next (memWrite x [b] s) :=
  if_neg (by simp [h])

/-- A read in the write footprint of a pending command returns the next free byte (R198, log 6). -/
theorem memWindowRead_writeFootprint (x : Nat) (s : State) (hb : s.status.busy = true)
    (hw : inWriteFootprint s x = true) :
    memWindowRead x s = countDraw (recordRead ((Config.freeByte s.env.draws).setWidth 32) s) :=
  if_pos (by rw [hb, hw]; rfl)

/-- A read of an unwritten byte returns the next free byte (R66, log 6). -/
theorem memWindowRead_unwritten (x : Nat) (s : State) (h : Memory.read s.mem x = none) :
    memWindowRead x s = countDraw (recordRead ((Config.freeByte s.env.draws).setWidth 32) s) := by
  simp only [memWindowRead, h, ite_self]

/-! ### CTRL bit by bit (R25) -/

theorem ctrlWord_reserved (c : Ctrl) (i : Nat) (h : 2 ≤ i) : (ctrlWord c).getLsbD i = false := by
  obtain ⟨k, rfl⟩ := Nat.exists_eq_add_of_le' h
  simp only [ctrlWord, BitVec.getLsbD_append]
  simp

theorem ctrlWord_bits (c : Ctrl) :
    (ctrlWord c).getLsbD 0 = c.ie ∧ (ctrlWord c).getLsbD 1 = c.truncFail := by
  simp only [ctrlWord, BitVec.getLsbD_append]
  simp

end Sys2Proof.Machine

/-! CERTIFICATE. The statements about a step, about what a pending command keeps, about the memory hazards and about
what a HOST statement stands for, settled. -/

namespace Sys2Proof.Proofs

open Sys2Proof Sys2Proof.Machine

/-- Settles O35: a run goes no further than its fault, and `rst` keeps the parameters and the host side alone. -/
theorem resetInput : Obligations.ResetInput := by
  unfold Obligations.ResetInput
  exact ⟨stepTimes_fault_add, fun s =>
    ⟨applyReset (popProg s), rfl, rfl, rfl, rfl, rfl, rfl, rfl, Memory.read_nil, rfl, rfl⟩⟩

/-- Settles O36: ENGINE's move would complete the command, and no HOST action that leaves it pending touches it. -/
theorem pendingCommandIsCaptured : Obligations.PendingCommandIsCaptured := by
  unfold Obligations.PendingCommandIsCaptured
  intro s t hb h ht
  have hb' : (takeTurn s).status.busy = true := by rwa [takeTurn_status]
  rcases step_next s t h with ⟨_, he⟩ | ⟨_, hh⟩
  · obtain ⟨hidle, _⟩ := engineMove_busy _ t hb' he
    exact absurd (ht.symm.trans hidle) nofun
  · exact captured_of_takeTurn s t (captured_hostTurn _ t hb' hh ht)

/-- Settles O46: a hazard is a write into the footprint before or after it. -/
theorem memoryWriteHazard : Obligations.MemoryWriteHazard := by
  unfold Obligations.MemoryWriteHazard
  intro s a b hb ha
  rw [hostMove_storeByte s a b ha]
  refine ⟨fun h => ?inside, fun hr hw hr' hw' => ?outside⟩
  case inside =>
    have hz : hazardous a b s = true := hazardous_of_footprint a b s hb h
    exact memWindowWrite_hazardous a b _ ((hazardous_popProg a b s).trans hz)
  case outside =>
    have hz : hazardous a b s = false := not_hazardous_of_outside a b s hr hw hr' hw'
    exact ⟨_, memWindowWrite_not_hazardous a b _ ((hazardous_popProg a b s).trans hz),
      fun x => memWrite_one_read a x b (popProg s)⟩

/-- Settles O47: in the write footprint the read is a draw, and a written byte outside it is read as it is. -/
theorem memoryReadHazard : Obligations.MemoryReadHazard := by
  unfold Obligations.MemoryReadHazard
  intro s a hb ha
  rw [hostMove_loadByte s a ha]
  refine ⟨fun hw => ?inside, fun hw b hr => ?outside⟩
  case inside => exact ⟨_, congrArg _ (memWindowRead_writeFootprint a (popProg s) hb hw), rfl, rfl, rfl⟩
  case outside => rw [memWindowRead_written a b (popProg s) (fun _ => hw) hr]

/-- Settles O45: the read of an unwritten byte is a draw, whatever command is pending. -/
theorem unwrittenHostReadDraws : Obligations.UnwrittenHostReadDraws := by
  unfold Obligations.UnwrittenHostReadDraws
  intro s a ha hr
  rw [hostMove_loadByte s a ha]
  exact ⟨_, congrArg _ (memWindowRead_unwritten a (popProg s) hr), rfl, rfl, rfl, rfl⟩

/-- Settles O50: POLL waits through HOST's turns, ENGINE completes the command, and the next read finds BUSY = 0. -/
theorem pollEnds : Obligations.PollEnds := by
  unfold Obligations.PollEnds
  intro k s u rest hb hp hs h
  obtain ⟨hbusy, hdone, hprog, hsched⟩ := stepTimes_poll_waits k s u rest hb hp hs h
  have hstep := step_poll u rest (nextAgent_of_sched u _ _ hsched) hprog
  rw [pollStep_idle _ (by rwa [takeTurn_status])] at hstep
  refine ⟨_, (stepTimes_succ_last (k + 1) s u h).trans hstep, ?_⟩
  simp [hprog, hbusy, hdone]

/-- Settles O29: ENGINE's step is its move after the turn is used up, and that changes neither PEND nor BUSY. -/
theorem stepRunsPendingCommand : Obligations.StepRunsPendingCommand := by
  unfold Obligations.StepRunsPendingCommand
  intro s ha
  refine ⟨fun i hb hf => ?runs, fun hb => ?idle, takeTurn_cfg s, takeTurn_ctrl s, takeTurn_status s, takeTurn_ops s,
    takeTurn_res s, takeTurn_dec s, takeTurn_pend s, takeTurn_mem s, takeTurn_prog s, takeTurn_reads s⟩
  case runs =>
    rw [step_engine s ha, engineMove_of_fetch _ i (by rwa [takeTurn_status]) (by rwa [fetch_takeTurn])]
  case idle => rw [step_engine s ha, engineMove_idle _ (by rwa [takeTurn_status])]

/-- Settles O30: HOST's step is its first action after the turn is used up. -/
theorem stepRunsHostAction : Obligations.StepRunsHostAction := by
  unfold Obligations.StepRunsHostAction
  intro s ha
  rw [step_host s ha]
  exact ⟨fun act rest hp => hostTurn_cons _ act rest (by rwa [takeTurn_prog]),
    fun hp => hostTurn_nil _ (by rwa [takeTurn_prog])⟩

/-- Settles O31: the schedule's head moves, and past its end the agent that alone has a move. -/
theorem scheduleNamesTheMover : Obligations.ScheduleNamesTheMover := by
  unfold Obligations.ScheduleNamesTheMover
  intro s
  refine ⟨fun a rest hs => ⟨nextAgent_of_sched s a rest hs, ?_⟩, nextAgent_idle s, nextAgent_engine_alone s⟩
  rw [takeTurn_sched, hs, List.tail_cons]

/-- Settles O2: three words are the commands' own, and six fail the test on RSVD or on OP. -/
theorem commandWordsDecode : Obligations.CommandWordsDecode := by
  unfold Obligations.CommandWordsDecode
  exact ⟨decode_encode .csum, decode_encode .buildEcho, decode_encode .decode, rfl, rfl, rfl, rfl, rfl, rfl⟩

/-- Settles O52: each statement unfolds to its accesses, and POLL's read leaves it in the program while BUSY = 1. -/
theorem hostNotation : Obligations.HostNotation := by
  unfold Obligations.HostNotation
  intro c r v a b bs text
  exact ⟨rfl, rfl, rfl, rfl, rfl, rfl, rfl, rfl, rfl, rfl, fun s => rfl⟩

/-- Settles O55: the CTRL word is the table of R25, and a write stores its two low bits. -/
theorem ctrlBits : Obligations.CtrlBits := by
  unfold Obligations.CtrlBits
  refine ⟨fun s => ?read, fun s v hb => ⟨_, hostMove_writeReg_idle s .ctrl v hb, rfl, rfl, rfl⟩,
    readsAs_reg State.reset .ctrl⟩
  case read =>
    obtain ⟨hie, htrunc⟩ := ctrlWord_bits s.ctrl
    exact ⟨_, readsAs_reg s .ctrl, hie, htrunc, ctrlWord_reserved s.ctrl⟩

end Sys2Proof.Proofs
